-- ==== Sys2Proof/Word.lean ====
section
/-! DEFINITION. The two widths of the block's data (spec/00_scope.md R5, R6): a byte (`BUS_DATA_W`, `REG_W`) and the 16-bit
value that serves as a CPU-bus address, a VRAM address and the content of the cursor (`BUS_ADDR_W`, `VRAM_ADDR_W`,
`CURSOR_W`). Every value of the block is unsigned (R6). -/

namespace Sys2Proof

/-- R6: a byte, an unsigned 8-bit value. -/
abbrev Byte := BitVec 8

/-- R5: a 16-bit address or cursor. -/
abbrev Word := BitVec 16

end Sys2Proof
end

