-- ==== Sys2Proof/Syntax.lean ====
section
/-! DEFINITION. The operations of the block, one constructor per row of spec/opcode_table.json (30_encoding.md R54, R56).
Operands are those of R55: the data byte of a bus write, the address of a bus read, and the arguments of an internal-port
operation. A bus write's operation does not depend on address bits 12:3 (R51), so they are no operand. -/

namespace Sys2Proof

/-- R56: the complete map of operations. -/
inductive Instr where
  -- Format BW (43_dispatcher.md): the eight bus writes.
  /-- R111. -/
  | wrCtrl (v : Byte)
  /-- R112. -/
  | wrMask (v : Byte)
  /-- R113. -/
  | wrStatus (v : Byte)
  /-- R114. -/
  | wrOamaddr (v : Byte)
  /-- R115. -/
  | wrOamdata (v : Byte)
  /-- R116. -/
  | wrScroll (v : Byte)
  /-- R117. -/
  | wrAddr (v : Byte)
  /-- R118. -/
  | wrData (v : Byte)
  -- Format BR: the bus read.
  /-- R119: a bus read at the address `a`. -/
  | rd (a : Word)
  -- Format IP (40_regbank_decode.md): the accessors of `ctrl`.
  /-- R65. -/
  | baseNametableAddr
  /-- R66. -/
  | vramAddrIncrement
  /-- R67. -/
  | spritePatternTableAddr
  /-- R68. -/
  | backgroundPatternTableAddr
  /-- R69. -/
  | spriteSize
  /-- R70. -/
  | vblankNmiEnabled
  -- Format IP (40_regbank_decode.md): the accessors of `mask`.
  /-- R72. -/
  | grayscale
  /-- R73. -/
  | showBackgroundLeft
  /-- R74. -/
  | showSpritesLeft
  /-- R75. -/
  | showBackground
  /-- R76. -/
  | showSprites
  /-- R77. -/
  | intensifyRed
  /-- R78. -/
  | intensifyGreen
  /-- R79. -/
  | intensifyBlue
  -- Format IP (41_regbank_mutators.md): the register mutators.
  /-- R85. -/
  | setCtrl (v : Byte)
  /-- R86. -/
  | setMask (v : Byte)
  /-- R87. -/
  | setOamAddr (v : Byte)
  /-- R88. -/
  | setSpriteOverflow (on : Bool)
  /-- R89. -/
  | setSpriteZeroHit (on : Bool)
  /-- R90. -/
  | setInVblank (on : Bool)
  /-- R91. -/
  | scrollWrite (v : Byte)
  /-- R92. -/
  | addrWrite (v : Byte)
  -- Format IP (42_addressspace.md): the VRAM operations.
  /-- R100. -/
  | load (a : Word)
  /-- R101. -/
  | store (a : Word) (v : Byte)
  /-- R102. -/
  | load16 (a : Word)
  /-- R103. -/
  | store16 (a : Word) (v : Word)
deriving DecidableEq, Repr

end Sys2Proof
end

