-- ==== Sys2Proof/WellFormed.lean ====
section
/-! DEFINITION. What the two ports present to the block, in the formats BW, BR and IP of spec/30_encoding.md (R50, R53, R54),
and which of it is well formed. The operands are typed by their widths and no value of one is reserved (R24, R55, R59), and
an internal-port operation has no encoding, so none of them can be illegal (R57): every term of `Instr` is well formed, and
the one thing that can be ill formed is a bus write whose address lies outside the window (R52). -/

namespace Sys2Proof

/-- R54, R56: the operations of the internal port, selected by name. There is no bit encoding. -/
inductive InternalOp where
  | baseNametableAddr
  | vramAddrIncrement
  | spritePatternTableAddr
  | backgroundPatternTableAddr
  | spriteSize
  | vblankNmiEnabled
  | grayscale
  | showBackgroundLeft
  | showSpritesLeft
  | showBackground
  | showSprites
  | intensifyRed
  | intensifyGreen
  | intensifyBlue
  | setCtrl (v : Byte)
  | setMask (v : Byte)
  | setOamAddr (v : Byte)
  | setSpriteOverflow (on : Bool)
  | setSpriteZeroHit (on : Bool)
  | setInVblank (on : Bool)
  | scrollWrite (v : Byte)
  | addrWrite (v : Byte)
  | load (a : Word)
  | store (a : Word) (v : Byte)
  | load16 (a : Word)
  | store16 (a : Word) (v : Word)
deriving DecidableEq, Repr

/-- One thing an external agent asks of the block, at transaction level (R50, 92_eei_decisions.md D20). -/
inductive Request where
  /-- Format BW (R50): a CPU-bus write of the byte `v` at the address `a`. -/
  | busWrite (a : Word) (v : Byte)
  /-- Format BR (R53): a CPU-bus read at the address `a`. -/
  | busRead (a : Word)
  /-- Format IP (R54): an internal-port operation. -/
  | internal (op : InternalOp)
deriving DecidableEq, Repr

/-- The three formats of 30_encoding.md. -/
inductive Format where
  | bw
  | br
  | ip
deriving DecidableEq, Repr

/-- The format a request has. -/
def Request.format : Request → Format
  | .busWrite _ _ => .bw
  | .busRead _ => .br
  | .internal _ => .ip

/-- R30, R31, R50: the CPU-bus window `0x2000` to `0x3FFF`. -/
def inWindow (a : Word) : Bool := decide (0x2000#16 ≤ a) && decide (a ≤ 0x3FFF#16)

/-- R52, R147: a CPU-bus component keeps its writes inside the window. Every bus read and every internal-port request has the
form of an operation of R56. -/
def Request.wellFormed : Request → Bool
  | .busWrite a _ => inWindow a
  | .busRead _ => true
  | .internal _ => true

end Sys2Proof
end

