-- ==== Sys2Proof/Decode.lean ====
section
/-! DEFINITION. From what a port presents to the operation it asks for (spec/30_encoding.md R50 to R57, 43_dispatcher.md
R110), total, with the one rejected form named; then the encoder, written from the same format table; then the host's
numbering of a table word. -/

namespace Sys2Proof

/-- What the decoder rejects, by name. -/
inductive DecodeError where
  /-- R52: a bus write outside the window `0x2000` to `0x3FFF`. -/
  | outOfWindow (a : Word)
deriving DecidableEq, Repr

/-- R50: the field `win`, address bits 15:13. -/
def winField (a : Word) : BitVec 3 := a.extractLsb' 13 3

/-- R50: the field `x`, address bits 12:3, ignored by the selection. -/
def mirrorField (a : Word) : BitVec 10 := a.extractLsb' 3 10

/-- R50: the field `reg`, address bits 2:0, the register offset `a & 7`. -/
def regField (a : Word) : BitVec 3 := a.extractLsb' 0 3

/-- R56, R110: the operation of each of the eight register offsets. -/
def busWriteOp (k : BitVec 3) (v : Byte) : Instr :=
  match k.toFin with
  | 0 => .wrCtrl v
  | 1 => .wrMask v
  | 2 => .wrStatus v
  | 3 => .wrOamaddr v
  | 4 => .wrOamdata v
  | 5 => .wrScroll v
  | 6 => .wrAddr v
  | 7 => .wrData v

/-- R50, R52, R110: a bus write is in the window exactly when `win` is `0b001`, and then its offset selects the operation. -/
def decodeBusWrite (a : Word) (v : Byte) : Except DecodeError Instr :=
  if winField a = 0b001#3 then .ok (busWriteOp (regField a) v) else .error (.outOfWindow a)

/-- R54, R56: an internal-port operation is selected by its name. -/
def internalInstr : InternalOp → Instr
  | .baseNametableAddr => .baseNametableAddr
  | .vramAddrIncrement => .vramAddrIncrement
  | .spritePatternTableAddr => .spritePatternTableAddr
  | .backgroundPatternTableAddr => .backgroundPatternTableAddr
  | .spriteSize => .spriteSize
  | .vblankNmiEnabled => .vblankNmiEnabled
  | .grayscale => .grayscale
  | .showBackgroundLeft => .showBackgroundLeft
  | .showSpritesLeft => .showSpritesLeft
  | .showBackground => .showBackground
  | .showSprites => .showSprites
  | .intensifyRed => .intensifyRed
  | .intensifyGreen => .intensifyGreen
  | .intensifyBlue => .intensifyBlue
  | .setCtrl v => .setCtrl v
  | .setMask v => .setMask v
  | .setOamAddr v => .setOamAddr v
  | .setSpriteOverflow on => .setSpriteOverflow on
  | .setSpriteZeroHit on => .setSpriteZeroHit on
  | .setInVblank on => .setInVblank on
  | .scrollWrite v => .scrollWrite v
  | .addrWrite v => .addrWrite v
  | .load a => .load a
  | .store a v => .store a v
  | .load16 a => .load16 a
  | .store16 a v => .store16 a v

/-- The decoder: total on everything a port can present. -/
def decode : Request → Except DecodeError Instr
  | .busWrite a v => decodeBusWrite a v
  | .busRead a => .ok (.rd a)
  | .internal op => .ok (internalInstr op)

/-- R61: a bus write from the 24-bit number that the notation `aaaa:vv` writes in hexadecimal. -/
def requestOfTrace (t : BitVec 24) : Request := .busWrite (t.extractLsb' 8 16) (t.extractLsb' 0 8)

/-- R50: the bus address of the offset `k` at its mirror number `x`, the bits `001 x k`. -/
def busAddress (x : BitVec 10) (k : BitVec 3) : Word := 0b001#3 ++ x ++ k

/-- The request that asks for an operation, with the ignored address bits of a bus write at `x`. -/
def encodeAt (x : BitVec 10) : Instr → Request
  | .wrCtrl v => .busWrite (busAddress x 0) v
  | .wrMask v => .busWrite (busAddress x 1) v
  | .wrStatus v => .busWrite (busAddress x 2) v
  | .wrOamaddr v => .busWrite (busAddress x 3) v
  | .wrOamdata v => .busWrite (busAddress x 4) v
  | .wrScroll v => .busWrite (busAddress x 5) v
  | .wrAddr v => .busWrite (busAddress x 6) v
  | .wrData v => .busWrite (busAddress x 7) v
  | .rd a => .busRead a
  | .baseNametableAddr => .internal .baseNametableAddr
  | .vramAddrIncrement => .internal .vramAddrIncrement
  | .spritePatternTableAddr => .internal .spritePatternTableAddr
  | .backgroundPatternTableAddr => .internal .backgroundPatternTableAddr
  | .spriteSize => .internal .spriteSize
  | .vblankNmiEnabled => .internal .vblankNmiEnabled
  | .grayscale => .internal .grayscale
  | .showBackgroundLeft => .internal .showBackgroundLeft
  | .showSpritesLeft => .internal .showSpritesLeft
  | .showBackground => .internal .showBackground
  | .showSprites => .internal .showSprites
  | .intensifyRed => .internal .intensifyRed
  | .intensifyGreen => .internal .intensifyGreen
  | .intensifyBlue => .internal .intensifyBlue
  | .setCtrl v => .internal (.setCtrl v)
  | .setMask v => .internal (.setMask v)
  | .setOamAddr v => .internal (.setOamAddr v)
  | .setSpriteOverflow on => .internal (.setSpriteOverflow on)
  | .setSpriteZeroHit on => .internal (.setSpriteZeroHit on)
  | .setInVblank on => .internal (.setInVblank on)
  | .scrollWrite v => .internal (.scrollWrite v)
  | .addrWrite v => .internal (.addrWrite v)
  | .load a => .internal (.load a)
  | .store a v => .internal (.store a v)
  | .load16 a => .internal (.load16 a)
  | .store16 a v => .internal (.store16 a v)

/-- The encoder: a bus write at the lowest alias of its offset, `0x2000 + k` (R61). -/
def encode (i : Instr) : Request := encodeAt 0 i

/-- The request of a table word. The table numbers the bus address as bits 15:0, and the data byte follows as bits 23:16. A
word has no bit for the direction of the transfer: one that holds no byte above the address and whose address no BW row of
the table matches is matched by the row `RD` alone (mask `0x0000`), and stands for a bus read. DESIGN CHOICE, assumption 17. -/
def tableRequest (nbits w : Nat) : Request :=
  let word := w % 2 ^ nbits
  let a := BitVec.ofNat 16 word
  if 16 < nbits || inWindow a then .busWrite a (BitVec.ofNat 8 (word / 2 ^ 16)) else .busRead a

/-- The instruction the decoder reads from a table word; a word with a bit above bit 23 is no transaction of the block. -/
def decodeTableWord (nbits w : Nat) : Option Instr :=
  if w % 2 ^ nbits < 2 ^ 24 then (decode (tableRequest nbits w)).toOption else none

end Sys2Proof
end

