-- ==== Sys2Proof/Config.lean ====
section
/-! DEFINITION. The implementation parameters of spec/00_scope.md R5 that a meaning reads, and the one parameter the spec
leaves OPEN, the cartridge's pattern bytes. -/

namespace Sys2Proof.Config

/-- R5, `VRAM_INC_SET`: the cursor increment when `ctrl` bit 2 is 1. -/
def vramIncSet : Word := 32

/-- R5, `VRAM_INC_CLEAR`: the cursor increment when `ctrl` bit 2 is 0. The spec follows its source here and asks for a named
constant (92_eei_decisions.md D21). UNVERIFIED against the original program, assumption 13, unsafe until it is audited. -/
def vramIncClear : Word := 0

/-- R5, `INIT`: what every byte register holds after power-on (R26, D1). DESIGN CHOICE, assumption 1, unsafe. -/
def initByte : Byte := 0

/-- R5, `INIT`: what the cursor holds after power-on (R26, D1). DESIGN CHOICE, assumption 1, unsafe. -/
def initCursor : Word := 0

/-- R5, `INIT`: what every byte of `NT` and `PAL` holds after power-on (R26, D2). DESIGN CHOICE, assumption 2, unsafe. -/
def initVram : Byte := 0

/-- R20, R47: `CHR`, the cartridge's pattern bytes, total on the 8192 pattern addresses and constant over the run. The spec
leaves the contents OPEN (92_eei_decisions.md D3): a constant without a body, so that no proof can see a value of it.
Assumption 3, safe. -/
opaque chr : BitVec 13 → Byte

end Sys2Proof.Config
end

