-- ==== Sys2Proof/Machine/State.lean ====
section
/-! DEFINITION. The state of the block (spec/10_state.md R10), the reasons an operation can fail or be refused (R125, R132),
and the state after power-on (R26, 70_reset_and_hazards.md R145). The block's state is `regs`, `vram` and `fault`; `pending`
and `reply` are the model's picture of the ports (assumptions 4 and 5). -/

namespace Sys2Proof.Machine

/-- R125: the operations that raise `Unimplemented`. -/
inductive UnimplementedOp where
  /-- R115. -/
  | wrOamdata
  /-- R103. -/
  | store16
deriving DecidableEq, Repr

/-- R125: the fault kinds of the block, a closed list. Taking one is a NEXT state with the kind in `State.fault` (R130), so
the outcome `fault` of a step never occurs (assumption 6). -/
inductive Fault where
  /-- R126: raised by `load`, `store`, `load16` and `WR.DATA` for a VRAM address of `0x4000` or above. Safe: the spec names
  the fault. The address is the spec's own addition (D10), assumption 16. -/
  | invalidAddress (a : Word)
  /-- R127: raised by `WR.OAMDATA` and `store16`, always. Safe: the spec names the fault. The operation is the spec's own
  addition (D10), assumption 16. -/
  | unimplemented (op : UnimplementedOp)
deriving DecidableEq, Repr

/-- R132: the closed list of refusals, and the host's name for an operation without a meaning. A refusal changes no state. -/
inductive Refusal where
  /-- R119: raised by `RD`, at every address. Safe: the model says nothing where the spec gives no behaviour. -/
  | noReadPath
  /-- R120: raised for a bus write outside the window. Safe, as above. -/
  | outOfWindow
  /-- R131: raised for every operation issued to a faulted block. Safe, as above. -/
  | faulted
  /-- No arm of `exec` answers it: every operation of the table has its meaning. Safe. -/
  | notModelled (mnemonic : String)
deriving DecidableEq, Repr

/-- R15: the two values of the scroll toggle. -/
inductive ScrollDir where
  | xDir
  | yDir
deriving DecidableEq, Repr

/-- R15: the scroll latch. -/
structure Scroll where
  x : Byte
  y : Byte
  /-- Which byte the next scroll write fills. -/
  next : ScrollDir
deriving DecidableEq, Repr

/-- R10, R11 to R17: the registers of the RegisterBank. -/
structure Regs where
  /-- R11. -/
  ctrl : Byte
  /-- R12. -/
  mask : Byte
  /-- R13. -/
  status : Byte
  /-- R14. -/
  oamAddr : Byte
  /-- R15, R16. -/
  scroll : Scroll
  /-- R17: the address cursor, 16 bits, never masked. -/
  addr : Word
deriving DecidableEq, Repr

/-- A buffer of bytes as the list of its (index, byte) pairs, in the canonical form `Memory.wf`. -/
abbrev Memory := List Host.Cell

/-- R10, R18, R19: the buffers of the AddressSpace. -/
structure Vram where
  /-- R18: `NT`, 4096 bytes. -/
  nt : Memory
  /-- R19: `PAL`, 32 bytes. -/
  pal : Memory
deriving DecidableEq, Repr

/-- R69: the two sprite sizes. -/
inductive SpriteSize where
  | size8x8
  | size8x16
deriving DecidableEq, Repr

/-- What an accessor, `load` or `load16` returns (40_regbank_decode.md, 42_addressspace.md). -/
inductive Value where
  | byte (b : Byte)
  | word (w : Word)
  | flag (b : Bool)
  | size (z : SpriteSize)
deriving DecidableEq, Repr

/-- R8, R130(2), R163(a): how a performed operation is reported to the agent that issued it. -/
inductive Reply where
  /-- Outcome ok, no value to return. -/
  | done
  /-- Outcome ok, with the value returned. -/
  | value (v : Value)
  /-- Outcome fault. -/
  | failed (f : Fault)
deriving DecidableEq, Repr

/-- R10 (`regs`, `vram`, `fault`), and the two ports. -/
structure State where
  /-- The RegisterBank. -/
  regs : Regs
  /-- The AddressSpace. -/
  vram : Vram
  /-- R21: the first fault, if an operation has faulted. -/
  fault : Option Fault
  /-- R42, R163: the operations issued and not yet performed, oldest first. The model's own, assumption 4. -/
  pending : List Request
  /-- R163(a): the report of the last operation performed, if any. The model's own, assumption 5. -/
  reply : Option Reply
deriving DecidableEq, Repr

/-- R26, R145: the block after power-on, idle, with no operation issued. The toggle is the source's value; the other values
are assumptions 1 and 2. -/
def State.reset : State where
  regs :=
    { ctrl := Config.initByte
      mask := Config.initByte
      status := Config.initByte
      oamAddr := Config.initByte
      scroll := { x := Config.initByte, y := Config.initByte, next := .xDir }
      addr := Config.initCursor }
  vram := { nt := [], pal := [] }
  fault := none
  pending := []
  reply := none

end Sys2Proof.Machine
end

