-- ==== Sys2Proof/Machine/Operands.lean ====
section
/-! DEFINITION. The operand forms of the block: a bit of a byte (spec/00_scope.md R6), the two places where a 16-bit value is
put together from bytes (20_memory.md R39), and the address operand of a VRAM operation, a 16-bit address resolved to a cell
(R32). -/

namespace Sys2Proof.Machine

/-- R6: bit `k` of a byte, numbered from the least significant end. -/
def bitOf (b : Byte) (k : Nat) : Bool := b.getLsbD k

/-- R39(a), R102: the byte at the lower address is the low byte. -/
def littleEndian (lo hi : Byte) : Word := lo.setWidth 16 ||| (hi.setWidth 16 <<< 8)

/-- R39(b), R92: a byte shifted into a 16-bit value from the low end. -/
def shiftIn (w : Word) (v : Byte) : Word := (w <<< 8) ||| v.setWidth 16

/-- R32: a cell of one of the three backing stores, with its index. -/
inductive CellRef where
  /-- R33: `CHR[i]`. -/
  | pattern (i : BitVec 13)
  /-- R34: `NT[i]`. -/
  | nametable (i : BitVec 12)
  /-- R35: `PAL[i]`. -/
  | palette (i : BitVec 5)
deriving DecidableEq, Repr

/-- R32: `Resolve`, compared on the full 16-bit address; `none` is `Invalid`. The index of a nametable cell is `a & 0x0FFF`,
the low 12 bits, and of a palette cell `a & 0x001F`, the low 5. -/
def resolve (a : Word) : Option CellRef :=
  if a ≤ 0x1FFF#16 then some (.pattern (a.setWidth 13))
  else if a ≤ 0x3EFF#16 then some (.nametable (a.setWidth 12))
  else if a ≤ 0x3FFF#16 then some (.palette (a.setWidth 5))
  else none

end Sys2Proof.Machine
end

