-- ==== Sys2Proof/Machine/Flags.lean ====
section
/-! DEFINITION. The flags of the block: the fields of the control and mask bytes (spec/40_regbank_decode.md), each a pure
function of the byte, and the three flags of the status byte (41_regbank_mutators.md R88 to R90). Control bit 6 has no field
(R71), and status bits 4:0 are changed by nothing (10_state.md R13). -/

namespace Sys2Proof.Machine

/-- R65: `0x2000 + ctrl[1:0] * 0x400`. -/
def baseNametableAddrOf (ctrl : Byte) : Word := 0x2000#16 + (ctrl.extractLsb' 0 2).setWidth 16 * 0x400#16

/-- R66: the cursor increment, by `ctrl[2]`. -/
def vramAddrIncrementOf (ctrl : Byte) : Word := if bitOf ctrl 2 then Config.vramIncSet else Config.vramIncClear

/-- R67, by `ctrl[3]`. -/
def spritePatternTableAddrOf (ctrl : Byte) : Word := if bitOf ctrl 3 then 0x1000#16 else 0x0000#16

/-- R68, by `ctrl[4]`. -/
def backgroundPatternTableAddrOf (ctrl : Byte) : Word := if bitOf ctrl 4 then 0x1000#16 else 0x0000#16

/-- R69, by `ctrl[5]`; which value selects which size is decision D4 of the spec. DESIGN CHOICE, assumption 10, unsafe. -/
def spriteSizeOf (ctrl : Byte) : SpriteSize := if bitOf ctrl 5 then .size8x16 else .size8x8

/-- R70: `ctrl[7]`. -/
def vblankNmiEnabledOf (ctrl : Byte) : Bool := bitOf ctrl 7

/-- R72: `mask[0]`. The order of the eight mask flags is decision D5 of the spec. DESIGN CHOICE, assumption 11, unsafe. -/
def grayscaleOf (mask : Byte) : Bool := bitOf mask 0

/-- R73: `mask[1]`. -/
def showBackgroundLeftOf (mask : Byte) : Bool := bitOf mask 1

/-- R74: `mask[2]`. -/
def showSpritesLeftOf (mask : Byte) : Bool := bitOf mask 2

/-- R75: `mask[3]`. -/
def showBackgroundOf (mask : Byte) : Bool := bitOf mask 3

/-- R76: `mask[4]`. -/
def showSpritesOf (mask : Byte) : Bool := bitOf mask 4

/-- R77: `mask[5]`. -/
def intensifyRedOf (mask : Byte) : Bool := bitOf mask 5

/-- R78: `mask[6]`. -/
def intensifyGreenOf (mask : Byte) : Bool := bitOf mask 6

/-- R79: `mask[7]`. -/
def intensifyBlueOf (mask : Byte) : Bool := bitOf mask 7

/-- R93: set or clear the bits of `m` in a status byte. -/
def setOrClear (status m : Byte) (on : Bool) : Byte := if on then status ||| m else status &&& ~~~m

/-- R88: status bit 5. -/
def withSpriteOverflow (status : Byte) (on : Bool) : Byte := setOrClear status 0x20#8 on

/-- R89: status bit 6. -/
def withSpriteZeroHit (status : Byte) (on : Bool) : Byte := setOrClear status 0x40#8 on

/-- R90: status bit 7. -/
def withInVblank (status : Byte) (on : Bool) : Byte := setOrClear status 0x80#8 on

end Sys2Proof.Machine
end

