-- ==== Sys2Proof/Machine/Memory.lean ====
section
/-! DEFINITION. The byte buffers `NT` and `PAL` (spec/10_state.md R18, R19) as canonical lists: one read and one write of a
cell, and the canonical form. -/

namespace Sys2Proof.Machine

/-- R26: what a cell that nothing has written reads as, the buffers' power-on content. Assumption 2. -/
def Memory.unlisted : Byte := Config.initVram

/-- The byte at the index `k`. -/
def Memory.read : Memory → Nat → Byte
  | [], _ => Memory.unlisted
  | (j, b) :: rest, k => if j = k then b else Memory.read rest k

/-- The buffer with the byte `v` at the index `k`, in canonical form. -/
def Memory.write : Memory → Nat → Byte → Memory
  | [], k, v => if v = Memory.unlisted then [] else [(k, v)]
  | (j, b) :: rest, k, v =>
    if k < j then
      if v = Memory.unlisted then (j, b) :: rest else (k, v) :: (j, b) :: rest
    else if k = j then
      if v = Memory.unlisted then rest else (k, v) :: rest
    else (j, b) :: Memory.write rest k v

/-- The canonical form of a buffer of `size` bytes: indices strictly rising and inside the buffer, and no entry that says what
an unlisted index reads as. -/
abbrev Memory.wf (size : Nat) (m : Memory) : Prop :=
  m.Pairwise (fun c d => c.1 < d.1) ∧ ∀ c ∈ m, c.1 < size ∧ c.2 ≠ Memory.unlisted

end Sys2Proof.Machine
end

