-- ==== Sys2Proof/Machine/Ops.lean ====
section
/-! DEFINITION. The named operations over the registers (spec/41_regbank_mutators.md) and over the VRAM (42_addressspace.md),
performing an operation and taking a fault (60_exceptions.md R130, R131), and taking the next issued operation (20_memory.md
R42). There is no return from a fault (R131): nothing clears `State.fault`. -/

namespace Sys2Proof.Machine

/-! The RegisterBank: each writes its own register and no other (R94). -/

/-- R85: all eight bits. -/
def Regs.setCtrl (r : Regs) (v : Byte) : Regs := { r with ctrl := v }

/-- R86. -/
def Regs.setMask (r : Regs) (v : Byte) : Regs := { r with mask := v }

/-- R87. -/
def Regs.setOamAddr (r : Regs) (v : Byte) : Regs := { r with oamAddr := v }

/-- R88. -/
def Regs.setSpriteOverflow (r : Regs) (on : Bool) : Regs := { r with status := withSpriteOverflow r.status on }

/-- R89. -/
def Regs.setSpriteZeroHit (r : Regs) (on : Bool) : Regs := { r with status := withSpriteZeroHit r.status on }

/-- R90. -/
def Regs.setInVblank (r : Regs) (on : Bool) : Regs := { r with status := withInVblank r.status on }

/-- R91: fill the byte the toggle names and flip the toggle. -/
def Scroll.fill (sc : Scroll) (v : Byte) : Scroll :=
  match sc.next with
  | .xDir => { sc with x := v, next := .yDir }
  | .yDir => { sc with y := v, next := .xDir }

/-- R91. -/
def Regs.scrollWrite (r : Regs) (v : Byte) : Regs := { r with scroll := r.scroll.fill v }

/-- R92: every write shifts; there is no toggle and no mask. -/
def Regs.addrWrite (r : Regs) (v : Byte) : Regs := { r with addr := shiftIn r.addr v }

/-- R118: the cursor advance, modulo `2^16` (D7). -/
def Regs.advance (r : Regs) : Regs := { r with addr := r.addr + vramAddrIncrementOf r.ctrl }

/-! The AddressSpace: it reads and writes no register (R105). -/

/-- R37: the byte a cell holds. -/
def Vram.readCell (m : Vram) : CellRef → Byte
  | .pattern i => Config.chr i
  | .nametable i => m.nt.read i.toNat
  | .palette i => m.pal.read i.toNat

/-- R38: a cell takes the byte; a pattern cell does not (R33). -/
def Vram.writeCell (m : Vram) (c : CellRef) (v : Byte) : Vram :=
  match c with
  | .pattern _ => m
  | .nametable i => { m with nt := m.nt.write i.toNat v }
  | .palette i => { m with pal := m.pal.write i.toNat v }

/-- R100. -/
def Vram.load (m : Vram) (a : Word) : Except Fault Byte :=
  match resolve a with
  | some c => .ok (m.readCell c)
  | none => .error (.invalidAddress a)

/-- R101. -/
def Vram.store (m : Vram) (a : Word) (v : Byte) : Except Fault Vram :=
  match resolve a with
  | some c => .ok (m.writeCell c v)
  | none => .error (.invalidAddress a)

/-- R102: the low byte first; the first failing address is the one reported (D15). -/
def Vram.load16 (m : Vram) (a : Word) : Except Fault Word :=
  match m.load a with
  | .error f => .error f
  | .ok lo =>
    match m.load (a + 1) with
    | .error f => .error f
    | .ok hi => .ok (littleEndian lo hi)

/-! Updates of the state by component. -/

/-- The state with the registers `r`. -/
def State.withRegs (s : State) (r : Regs) : State := { s with regs := r }

/-- The state with the buffers `m`. -/
def State.withVram (s : State) (m : Vram) : State := { s with vram := m }

/-- The state whose last operation is reported as `r`. -/
def State.withReply (s : State) (r : Reply) : State := { s with reply := some r }

/-- The state whose issued operations are `q`. -/
def State.withPending (s : State) (q : List Request) : State := { s with pending := q }

/-- R130: fault entry. Nothing changes but `fault`, which takes the kind if it held none, and the failure is reported to the
agent that issued the operation. -/
def State.takeFault (s : State) (f : Fault) : State :=
  { s with fault := s.fault.or (some f), reply := some (.failed f) }

/-! Performing an operation. -/

/-- What an operation comes to on a block that has not faulted: the state it leaves and what it reports, or a fault (R8). -/
abbrev Effect := Except Fault (State × Reply)

/-- R131: a faulted block refuses every operation. -/
def whenLive (s : State) (live : Host.Outcome State Fault Refusal) : Host.Outcome State Fault Refusal :=
  match s.fault with
  | some _ => .refused .faulted
  | none => live

/-- R8, R9, R130: an operation takes its whole effect, or faults and has none. -/
def perform (s : State) (e : Effect) : Host.Outcome State Fault Refusal :=
  whenLive s <|
    match e with
    | .ok (t, r) => .next (t.withReply r)
    | .error f => .next (s.takeFault f)

/-- An operation of the RegisterBank that leaves the registers `r` and returns nothing. -/
def updateRegs (s : State) (r : Regs) : Host.Outcome State Fault Refusal := perform s (.ok (s.withRegs r, .done))

/-- R80: an operation that returns a value and writes no state. -/
def answer (s : State) (v : Value) : Host.Outcome State Fault Refusal := perform s (.ok (s, .value v))

/-- R100, R102: an operation that returns the value of a VRAM access, or takes the access's fault. -/
def answerAccess (s : State) (v : Except Fault Value) : Host.Outcome State Fault Refusal :=
  perform s (v.map fun x => (s, .value x))

/-- R101: the effect of a byte store at `a`. -/
def storeEffect (s : State) (a : Word) (v : Byte) : Effect :=
  (s.vram.store a v).map fun m => (s.withVram m, .done)

/-- R118, R121: the effect of the data write: the store at the cursor of before, then the advance. -/
def dataWriteEffect (s : State) (v : Byte) : Effect :=
  (s.vram.store s.regs.addr v).map fun m => ((s.withVram m).withRegs s.regs.advance, .done)

/-- R115, R103: an operation that always raises `Unimplemented`. -/
def raiseUnimplemented (s : State) (op : UnimplementedOp) : Host.Outcome State Fault Refusal :=
  perform s (.error (.unimplemented op))

/-- R132: a refusal for the reason `r`, decided before any fault (R129), but after the check that the block has not faulted
(R110). -/
def refuse (s : State) (r : Refusal) : Host.Outcome State Fault Refusal := whenLive s (.refused r)

/-! Taking the next issued operation. -/

/-- R42: the oldest issued operation, and the state in which it is no longer pending. -/
def State.takeRequest (s : State) : Option (Request × State) :=
  match s.pending with
  | [] => none
  | r :: rest => some (r, s.withPending rest)

/-- R42: the state in which the operation `r` is the next to be performed. -/
def State.issueFirst (s : State) (r : Request) : State := s.withPending (r :: s.pending)

/-- How a rejected request is refused (R120). -/
def refuseRequest (s : State) : DecodeError → Host.Outcome State Fault Refusal
  | .outOfWindow _ => refuse s .outOfWindow

end Sys2Proof.Machine
end

