-- ==== Sys2Proof/Machine/Accessors.lean ====
section
/-! DEFINITION. The fourteen decode accessors (spec/40_regbank_decode.md): each returns a value and writes no state (R80). -/

namespace Sys2Proof.Machine

/-- R65. -/
def execBaseNametableAddr (s : State) : Host.Outcome State Fault Refusal :=
  answer s (.word (baseNametableAddrOf s.regs.ctrl))

/-- R66. -/
def execVramAddrIncrement (s : State) : Host.Outcome State Fault Refusal :=
  answer s (.word (vramAddrIncrementOf s.regs.ctrl))

/-- R67. -/
def execSpritePatternTableAddr (s : State) : Host.Outcome State Fault Refusal :=
  answer s (.word (spritePatternTableAddrOf s.regs.ctrl))

/-- R68. -/
def execBackgroundPatternTableAddr (s : State) : Host.Outcome State Fault Refusal :=
  answer s (.word (backgroundPatternTableAddrOf s.regs.ctrl))

/-- R69. -/
def execSpriteSize (s : State) : Host.Outcome State Fault Refusal :=
  answer s (.size (spriteSizeOf s.regs.ctrl))

/-- R70. -/
def execVblankNmiEnabled (s : State) : Host.Outcome State Fault Refusal :=
  answer s (.flag (vblankNmiEnabledOf s.regs.ctrl))

/-- R72. -/
def execGrayscale (s : State) : Host.Outcome State Fault Refusal :=
  answer s (.flag (grayscaleOf s.regs.mask))

/-- R73. -/
def execShowBackgroundLeft (s : State) : Host.Outcome State Fault Refusal :=
  answer s (.flag (showBackgroundLeftOf s.regs.mask))

/-- R74. -/
def execShowSpritesLeft (s : State) : Host.Outcome State Fault Refusal :=
  answer s (.flag (showSpritesLeftOf s.regs.mask))

/-- R75. -/
def execShowBackground (s : State) : Host.Outcome State Fault Refusal :=
  answer s (.flag (showBackgroundOf s.regs.mask))

/-- R76. -/
def execShowSprites (s : State) : Host.Outcome State Fault Refusal :=
  answer s (.flag (showSpritesOf s.regs.mask))

/-- R77. -/
def execIntensifyRed (s : State) : Host.Outcome State Fault Refusal :=
  answer s (.flag (intensifyRedOf s.regs.mask))

/-- R78. -/
def execIntensifyGreen (s : State) : Host.Outcome State Fault Refusal :=
  answer s (.flag (intensifyGreenOf s.regs.mask))

/-- R79. -/
def execIntensifyBlue (s : State) : Host.Outcome State Fault Refusal :=
  answer s (.flag (intensifyBlueOf s.regs.mask))

end Sys2Proof.Machine
end

