-- ==== Sys2Proof/Machine/AddressSpace.lean ====
section
/-! DEFINITION. The four VRAM operations of the internal port (spec/42_addressspace.md). -/

namespace Sys2Proof.Machine

/-- R100. -/
def execLoad (a : Word) (s : State) : Host.Outcome State Fault Refusal :=
  answerAccess s ((s.vram.load a).map .byte)

/-- R101. -/
def execStore (a : Word) (v : Byte) (s : State) : Host.Outcome State Fault Refusal := perform s (storeEffect s a v)

/-- R102. -/
def execLoad16 (a : Word) (s : State) : Host.Outcome State Fault Refusal :=
  answerAccess s ((s.vram.load16 a).map .word)

/-- R103: `raise Unimplemented(store16)`, for every address and value; the address is not examined (D16). -/
def execStore16 (_a : Word) (_v : Word) (s : State) : Host.Outcome State Fault Refusal := raiseUnimplemented s .store16

end Sys2Proof.Machine
end

