-- ==== Sys2Proof/Machine/Dispatcher.lean ====
section
/-! DEFINITION. The bus operations (spec/43_dispatcher.md): the eight writes and the read. -/

namespace Sys2Proof.Machine

/-- R111: `set_ctrl(v)`. -/
def execWrCtrl (v : Byte) (s : State) : Host.Outcome State Fault Refusal := updateRegs s (s.regs.setCtrl v)

/-- R112: `set_mask(v)`. -/
def execWrMask (v : Byte) (s : State) : Host.Outcome State Fault Refusal := updateRegs s (s.regs.setMask v)

/-- R113: nothing; the byte is discarded and the outcome is ok. -/
def execWrStatus (_v : Byte) (s : State) : Host.Outcome State Fault Refusal := perform s (.ok (s, .done))

/-- R114: `set_oam_addr(v)`. -/
def execWrOamaddr (v : Byte) (s : State) : Host.Outcome State Fault Refusal := updateRegs s (s.regs.setOamAddr v)

/-- R115: `raise Unimplemented(WR.OAMDATA)`, for every byte. -/
def execWrOamdata (_v : Byte) (s : State) : Host.Outcome State Fault Refusal := raiseUnimplemented s .wrOamdata

/-- R116: `scroll_write(v)`. -/
def execWrScroll (v : Byte) (s : State) : Host.Outcome State Fault Refusal := updateRegs s (s.regs.scrollWrite v)

/-- R117: `addr_write(v)`. -/
def execWrAddr (v : Byte) (s : State) : Host.Outcome State Fault Refusal := updateRegs s (s.regs.addrWrite v)

/-- R118: `store(addr, v)`, then the cursor advances; a store that fails leaves the cursor (D8). -/
def execWrData (v : Byte) (s : State) : Host.Outcome State Fault Refusal := perform s (dataWriteEffect s v)

/-- R119: the block has no read path, at any address. -/
def execRd (_a : Word) (s : State) : Host.Outcome State Fault Refusal := refuse s .noReadPath

end Sys2Proof.Machine
end

