-- ==== Sys2Proof/Machine/Mutators.lean ====
section
/-! DEFINITION. The eight register mutators of the internal port (spec/41_regbank_mutators.md). -/

namespace Sys2Proof.Machine

/-- R85. -/
def execSetCtrl (v : Byte) (s : State) : Host.Outcome State Fault Refusal :=
  updateRegs s (s.regs.setCtrl v)

/-- R86. -/
def execSetMask (v : Byte) (s : State) : Host.Outcome State Fault Refusal :=
  updateRegs s (s.regs.setMask v)

/-- R87. -/
def execSetOamAddr (v : Byte) (s : State) : Host.Outcome State Fault Refusal :=
  updateRegs s (s.regs.setOamAddr v)

/-- R88. -/
def execSetSpriteOverflow (on : Bool) (s : State) : Host.Outcome State Fault Refusal :=
  updateRegs s (s.regs.setSpriteOverflow on)

/-- R89. -/
def execSetSpriteZeroHit (on : Bool) (s : State) : Host.Outcome State Fault Refusal :=
  updateRegs s (s.regs.setSpriteZeroHit on)

/-- R90. -/
def execSetInVblank (on : Bool) (s : State) : Host.Outcome State Fault Refusal :=
  updateRegs s (s.regs.setInVblank on)

/-- R91. -/
def execScrollWrite (v : Byte) (s : State) : Host.Outcome State Fault Refusal :=
  updateRegs s (s.regs.scrollWrite v)

/-- R92. -/
def execAddrWrite (v : Byte) (s : State) : Host.Outcome State Fault Refusal :=
  updateRegs s (s.regs.addrWrite v)

end Sys2Proof.Machine
end

