-- ==== Sys2Proof/Machine/Dispatch.lean ====
section
/-! DEFINITION. The meaning of each operation, one arm per row of spec/opcode_table.json. -/

namespace Sys2Proof.Machine

def exec (i : Instr) (s : State) : Host.Outcome State Fault Refusal :=
  match i with
  | .wrCtrl v => Sys2Proof.Machine.execWrCtrl v s
  | .wrMask v => Sys2Proof.Machine.execWrMask v s
  | .wrStatus v => Sys2Proof.Machine.execWrStatus v s
  | .wrOamaddr v => Sys2Proof.Machine.execWrOamaddr v s
  | .wrOamdata v => Sys2Proof.Machine.execWrOamdata v s
  | .wrScroll v => Sys2Proof.Machine.execWrScroll v s
  | .wrAddr v => Sys2Proof.Machine.execWrAddr v s
  | .wrData v => Sys2Proof.Machine.execWrData v s
  | .rd a => Sys2Proof.Machine.execRd a s
  | .baseNametableAddr => Sys2Proof.Machine.execBaseNametableAddr s
  | .vramAddrIncrement => Sys2Proof.Machine.execVramAddrIncrement s
  | .spritePatternTableAddr => Sys2Proof.Machine.execSpritePatternTableAddr s
  | .backgroundPatternTableAddr => Sys2Proof.Machine.execBackgroundPatternTableAddr s
  | .spriteSize => Sys2Proof.Machine.execSpriteSize s
  | .vblankNmiEnabled => Sys2Proof.Machine.execVblankNmiEnabled s
  | .grayscale => Sys2Proof.Machine.execGrayscale s
  | .showBackgroundLeft => Sys2Proof.Machine.execShowBackgroundLeft s
  | .showSpritesLeft => Sys2Proof.Machine.execShowSpritesLeft s
  | .showBackground => Sys2Proof.Machine.execShowBackground s
  | .showSprites => Sys2Proof.Machine.execShowSprites s
  | .intensifyRed => Sys2Proof.Machine.execIntensifyRed s
  | .intensifyGreen => Sys2Proof.Machine.execIntensifyGreen s
  | .intensifyBlue => Sys2Proof.Machine.execIntensifyBlue s
  | .setCtrl v => Sys2Proof.Machine.execSetCtrl v s
  | .setMask v => Sys2Proof.Machine.execSetMask v s
  | .setOamAddr v => Sys2Proof.Machine.execSetOamAddr v s
  | .setSpriteOverflow on => Sys2Proof.Machine.execSetSpriteOverflow on s
  | .setSpriteZeroHit on => Sys2Proof.Machine.execSetSpriteZeroHit on s
  | .setInVblank on => Sys2Proof.Machine.execSetInVblank on s
  | .scrollWrite v => Sys2Proof.Machine.execScrollWrite v s
  | .addrWrite v => Sys2Proof.Machine.execAddrWrite v s
  | .load a => Sys2Proof.Machine.execLoad a s
  | .store a v => Sys2Proof.Machine.execStore a v s
  | .load16 a => Sys2Proof.Machine.execLoad16 a s
  | .store16 a v => Sys2Proof.Machine.execStore16 a v s

end Sys2Proof.Machine
end

