-- ==== Sys2Proof/Machine/Step.lean ====
section
/-! DEFINITION. One step of the block: it performs the oldest issued operation (spec/20_memory.md R42, 43_dispatcher.md R110,
70_reset_and_hazards.md R163). With no operation issued the block is idle and nothing changes (R42, R145; assumption 18). -/

namespace Sys2Proof.Machine

/-- R110: dispatch of one request. The fault check of R110 and R131 stands inside `exec` and `refuseRequest`, before
everything else they do. -/
def dispatch (r : Request) (s : State) : Host.Outcome State Fault Refusal :=
  match decode r with
  | .ok i => exec i s
  | .error e => refuseRequest s e

/-- R42, R163: perform the oldest issued operation, or idle. -/
def step (s : State) : Host.Outcome State Fault Refusal :=
  match s.takeRequest with
  | none => .next s
  | some (r, t) => dispatch r t

/-- The state in which the operation of a table word is the next to be performed (assumptions 4 and 17). -/
def State.withFetchWord (s : State) (nbits w : Nat) : State := s.issueFirst (tableRequest nbits w)

end Sys2Proof.Machine
end

