-- ==== Sys2Proof/Safety.lean ====
section
/-! DEFINITION. What counts as a safe run (spec/70_reset_and_hazards.md R163), the invariant of the state, and the words in
which claims speak of operations: which element each may write (10_state.md R10), which it reads, and which addresses reach
one cell (20_memory.md R46). -/

namespace Sys2Proof

/-! R10, the column "written by". A bus write stands beside the mutator it performs. -/

/-- `ctrl`. -/
def Instr.writesCtrl : Instr → Bool
  | .wrCtrl _ | .setCtrl _ => true
  | _ => false

/-- `mask`. -/
def Instr.writesMask : Instr → Bool
  | .wrMask _ | .setMask _ => true
  | _ => false

/-- `status`. -/
def Instr.writesStatus : Instr → Bool
  | .setSpriteOverflow _ | .setSpriteZeroHit _ | .setInVblank _ => true
  | _ => false

/-- `oam_addr`. -/
def Instr.writesOamAddr : Instr → Bool
  | .wrOamaddr _ | .setOamAddr _ => true
  | _ => false

/-- `scroll.x`, `scroll.y`, `scroll.next`. -/
def Instr.writesScroll : Instr → Bool
  | .wrScroll _ | .scrollWrite _ => true
  | _ => false

/-- `addr`. -/
def Instr.writesCursor : Instr → Bool
  | .wrAddr _ | .addrWrite _ | .wrData _ => true
  | _ => false

/-- `NT`, `PAL`. -/
def Instr.writesVram : Instr → Bool
  | .wrData _ | .store _ _ => true
  | _ => false

/-- R65 to R70: the accessors of `ctrl`. -/
def Instr.readsCtrl : Instr → Bool
  | .baseNametableAddr | .vramAddrIncrement | .spritePatternTableAddr | .backgroundPatternTableAddr | .spriteSize
  | .vblankNmiEnabled => true
  | _ => false

/-- R72 to R79: the accessors of `mask`. -/
def Instr.readsMask : Instr → Bool
  | .grayscale | .showBackgroundLeft | .showSpritesLeft | .showBackground | .showSprites | .intensifyRed | .intensifyGreen
  | .intensifyBlue => true
  | _ => false

/-- R128: the operations that fault in no state and are refused in none but a faulted one, whatever the cursor holds. -/
def Instr.alwaysCompletes : Instr → Bool
  | .wrOamdata _ | .wrData _ | .rd _ | .store16 _ _ => false
  | .load a | .store a _ => decide (a ≤ 0x3FFF#16)
  | .load16 a => decide (a ≤ 0x3FFE#16)
  | _ => true

end Sys2Proof

namespace Sys2Proof.Machine

/-- `k` steps of the machine, stopping at the first refusal. -/
def runFor (k : Nat) (s : State) : Host.Outcome State Fault Refusal := Host.Core.run Sys2Proof.core k s

/-- R163: the run of the operations pending in `s` ends in `t`: every one of them is performed and none is refused. -/
def RunEnds (s t : State) : Prop := runFor s.pending.length s = .next t

/-- R163: a run is successful when no operation was refused and `fault = None` at the end. -/
def SuccessfulRun (s t : State) : Prop := RunEnds s t ∧ t.fault = none

/-- The buffers are in canonical form, `NT` inside 4096 bytes (R18) and `PAL` inside 32 (R19). -/
abbrev Vram.wf (m : Vram) : Prop := m.nt.wf 4096 ∧ m.pal.wf 32

/-- The invariant of the state: the buffers are canonical, and a faulted block's last report is its fault, since the fault
was reported (R130) and everything after it is refused (R131). -/
def State.Inv (s : State) : Prop := s.vram.wf ∧ ∀ f, s.fault = some f → s.reply = some (.failed f)

/-- R16: a scroll write, on either port. -/
def isScrollWrite (r : Request) : Bool :=
  match decode r with
  | .ok i => i.writesScroll
  | .error _ => false

/-- R134: what the CPU-bus port can present. -/
def fromCpuBus (r : Request) : Bool :=
  match r.format with
  | .bw | .br => true
  | .ip => false

/-- R46: two VRAM addresses reach one cell, in the spec's own terms. -/
abbrev aliases (a b : Word) : Prop :=
  a = b ∨
  (0x2000#16 ≤ a ∧ a ≤ 0x3EFF#16 ∧ 0x2000#16 ≤ b ∧ b ≤ 0x3EFF#16 ∧ a &&& 0x0FFF#16 = b &&& 0x0FFF#16) ∨
  (0x3F00#16 ≤ a ∧ a ≤ 0x3FFF#16 ∧ 0x3F00#16 ≤ b ∧ b ≤ 0x3FFF#16 ∧ a &&& 0x1F#16 = b &&& 0x1F#16)

end Sys2Proof.Machine
end

