-- ==== Sys2Proof/Certificates/Slice0/Obligations.lean ====
section
/-! DEFINITION. The statements about the model. A docstring names the rule of spec/ a statement formalises, and says where a
clause rests on one of the spec's own decisions (92_eei_decisions.md) or on an entry of the assumption log. -/

open Sys2Proof Sys2Proof.Machine

/-! ## Power-on -/

/-- 10_state.md section 6 (rule R26's table): the state after power-on. The toggle is the source's value; the zeros are the
spec's decisions D1 and D2 (assumptions 1 and 2), `fault = None` is D9, and the idle ports are assumptions 4 and 5. -/
def Obligations.PowerOnState : Prop :=
  State.reset.regs =
      { ctrl := 0x00#8, mask := 0x00#8, status := 0x00#8, oamAddr := 0x00#8,
        scroll := { x := 0x00#8, y := 0x00#8, next := .xDir }, addr := 0x0000#16 } ∧
    (∀ a : Word, 0x2000#16 ≤ a → a ≤ 0x3FFF#16 → State.reset.vram.load a = .ok 0x00#8) ∧
    (∀ a : Word, a ≤ 0x1FFF#16 → State.reset.vram.load a = .ok (Config.chr (a.setWidth 13))) ∧
    State.reset.fault = none ∧ State.reset.pending = [] ∧ State.reset.reply = none

/-- The invariant of `InvariantKeptByEveryStep` holds after power-on. -/
def Obligations.InvariantAtPowerOn : Prop := State.reset.Inv

/-- 10_state.md section 6, last paragraph: what the fourteen accessors return after power-on. It rests on D1, D4 and D5
(assumptions 1, 10 and 11). -/
def Obligations.PowerOnDecodedOutputs : Prop :=
  let r (v : Value) : Host.Outcome State Fault Refusal := .next { State.reset with reply := some (.value v) }
  exec .baseNametableAddr State.reset = r (.word 0x2000#16) ∧
    exec .vramAddrIncrement State.reset = r (.word 0) ∧
    exec .spritePatternTableAddr State.reset = r (.word 0) ∧
    exec .backgroundPatternTableAddr State.reset = r (.word 0) ∧
    exec .spriteSize State.reset = r (.size .size8x8) ∧
    exec .vblankNmiEnabled State.reset = r (.flag false) ∧
    ∀ i : Instr, i.readsMask = true → exec i State.reset = r (.flag false)

/-! ## Requests, decoding and the step -/

/-- 20_memory.md section 5 (rule R42): a step is the decoded operation, at the state in which it is no longer pending. With
nothing issued the block idles (70_reset_and_hazards.md section 1); that idling is a step which changes nothing is assumption
18. -/
def Obligations.StepPerformsOldestOperation : Prop :=
  (∀ (s : State) (r : Request) (rest : List Request) (i : Instr),
      s.pending = r :: rest → decode r = .ok i → step s = exec i { s with pending := rest }) ∧
    ∀ s : State, s.pending = [] → step s = .next s

/-- The host's two ways to name an operation by a table word agree: the word's operation is what the next step runs
(assumption 17). -/
def Obligations.FetchWordRunsDecodedOperation : Prop :=
  ∀ (s : State) (nbits w : Nat) (i : Instr), decodeTableWord nbits w = some i → step (s.withFetchWord nbits w) = exec i s

/-- 43_dispatcher.md section 1 (rule R110): the dispatch of a bus write, in the order of the rule. The refusals `Faulted` and
`OutOfWindow` are the spec's decisions D9 and D12. -/
def Obligations.BusWriteDispatch : Prop :=
  ∀ (s : State) (a : Word) (v : Byte) (rest : List Request), s.pending = .busWrite a v :: rest →
    (s.fault ≠ none → step s = .refused .faulted) ∧
    (s.fault = none → a < 0x2000#16 ∨ 0x3FFF#16 < a → step s = .refused .outOfWindow) ∧
    (s.fault = none → 0x2000#16 ≤ a → a ≤ 0x3FFF#16 →
      (a &&& 7#16 = 0#16 → step s = exec (.wrCtrl v) { s with pending := rest }) ∧
      (a &&& 7#16 = 1#16 → step s = exec (.wrMask v) { s with pending := rest }) ∧
      (a &&& 7#16 = 2#16 → step s = exec (.wrStatus v) { s with pending := rest }) ∧
      (a &&& 7#16 = 3#16 → step s = exec (.wrOamaddr v) { s with pending := rest }) ∧
      (a &&& 7#16 = 4#16 → step s = exec (.wrOamdata v) { s with pending := rest }) ∧
      (a &&& 7#16 = 5#16 → step s = exec (.wrScroll v) { s with pending := rest }) ∧
      (a &&& 7#16 = 6#16 → step s = exec (.wrAddr v) { s with pending := rest }) ∧
      (a &&& 7#16 = 7#16 → step s = exec (.wrData v) { s with pending := rest }))

/-- 30_encoding.md section 3 (the table of rule R56): the `mask`/`match` rows of the eight bus writes. That a bus write outside
the window is rejected `OutOfWindow`, the last clause, is the spec's decision D12 (assumption 9), not R56's table. -/
def Obligations.BusWriteOpcodeMap : Prop :=
  ∀ (a : Word) (v : Byte),
    (a &&& 0xE007#16 = 0x2000#16 → decode (.busWrite a v) = .ok (.wrCtrl v)) ∧
    (a &&& 0xE007#16 = 0x2001#16 → decode (.busWrite a v) = .ok (.wrMask v)) ∧
    (a &&& 0xE007#16 = 0x2002#16 → decode (.busWrite a v) = .ok (.wrStatus v)) ∧
    (a &&& 0xE007#16 = 0x2003#16 → decode (.busWrite a v) = .ok (.wrOamaddr v)) ∧
    (a &&& 0xE007#16 = 0x2004#16 → decode (.busWrite a v) = .ok (.wrOamdata v)) ∧
    (a &&& 0xE007#16 = 0x2005#16 → decode (.busWrite a v) = .ok (.wrScroll v)) ∧
    (a &&& 0xE007#16 = 0x2006#16 → decode (.busWrite a v) = .ok (.wrAddr v)) ∧
    (a &&& 0xE007#16 = 0x2007#16 → decode (.busWrite a v) = .ok (.wrData v)) ∧
    (a &&& 0xE000#16 ≠ 0x2000#16 → decode (.busWrite a v) = .error (.outOfWindow a))

/-- R51: mirroring every eight bytes, and the lowest and highest address of an offset. -/
def Obligations.MirroredWritesHaveOneEffect : Prop :=
  (∀ (a b : Word) (v : Byte) (s : State) (rest : List Request),
      0x2000#16 ≤ a → a ≤ 0x3FFF#16 → 0x2000#16 ≤ b → b ≤ 0x3FFF#16 → a &&& 7#16 = b &&& 7#16 →
        step { s with pending := .busWrite a v :: rest } = step { s with pending := .busWrite b v :: rest }) ∧
    (∀ a : Word, 0x2000#16 ≤ a → a ≤ 0x3FFF#16 → 0x2000#16 + (a &&& 7#16) ≤ a ∧ a ≤ 0x3FF8#16 + (a &&& 7#16)) ∧
    (∀ k : Word, k ≤ 7#16 → (0x2000#16 + k) &&& 7#16 = k ∧ (0x3FF8#16 + k) &&& 7#16 = k)

/-- A few requests written out from the spec: bus writes in the notation `aaaa:vv` (30_encoding.md section 5,
95_test_vectors.md), among them the highest alias of offset 0 and two accesses outside the window; a read; and two
operations by name. That the two accesses outside the window are rejected is the spec's decision D12 (assumption 9). -/
def Obligations.SampleRequestsDecode : Prop :=
  decode (requestOfTrace 0x200084#24) = .ok (.wrCtrl 0x84#8) ∧
    decode (requestOfTrace 0x3FF884#24) = .ok (.wrCtrl 0x84#8) ∧
    decode (requestOfTrace 0x2AB11E#24) = .ok (.wrMask 0x1E#8) ∧
    decode (requestOfTrace 0x20063F#24) = .ok (.wrAddr 0x3F#8) ∧
    decode (requestOfTrace 0x200F02#24) = .ok (.wrData 0x02#8) ∧
    decode (requestOfTrace 0x1FFF00#24) = .error (.outOfWindow 0x1FFF#16) ∧
    decode (requestOfTrace 0x401402#24) = .error (.outOfWindow 0x4014#16) ∧
    decode (.busRead 0x2002#16) = .ok (.rd 0x2002#16) ∧
    decode (.internal (.store 0x3F00#16 0x07#8)) = .ok (.store 0x3F00#16 0x07#8) ∧
    decode (.internal (.setInVblank true)) = .ok (.setInVblank true)

/-- 30_encoding.md sections 1 to 3: every operation, with every operand and at every one of the 1024 aliases of a bus write,
is what its request decodes to. -/
def Obligations.EncodedOperationDecodesToItself : Prop := ∀ (x : BitVec 10) (i : Instr), decode (encodeAt x i) = .ok i

/-- 30_encoding.md sections 1 to 3: the other direction. A request that decodes is the encoding of its operation at some
alias, so no bit of it is lost but the ignored ones. -/
def Obligations.DecodedRequestIsAnEncoding : Prop :=
  ∀ (r : Request) (i : Instr), decode r = .ok i → ∃ x : BitVec 10, encodeAt x i = r

/-- 20_memory.md section 5 (rule R42(b)): an operation sees nothing of the operations issued after it. -/
def Obligations.LaterOperationsDoNotInfluence : Prop :=
  ∀ (s : State) (later : List Request), s.pending ≠ [] →
    (∀ t, step s = .next t →
      step { s with pending := s.pending ++ later } = .next { t with pending := t.pending ++ later }) ∧
    (∀ r, step s = .refused r → step { s with pending := s.pending ++ later } = .refused r)

/-! ## The accessors of the control byte -/

/-- R65, and its frame: nothing changes but the report. -/
def Obligations.BaseNametableAddrResult : Prop :=
  ∀ s : State, s.fault = none →
    exec .baseNametableAddr s =
      .next { s with reply := some (.value (.word (BitVec.ofNat 16 (0x2000 + s.regs.ctrl.toNat % 4 * 0x400)))) }

/-- R66, and its frame. The value for a clear bit is 0, as the source says twice (assumption 13). -/
def Obligations.VramAddrIncrementResult : Prop :=
  ∀ s : State, s.fault = none →
    exec .vramAddrIncrement s =
      .next { s with reply := some (.value (.word (if s.regs.ctrl.toNat / 4 % 2 = 1 then 32#16 else 0#16))) }

/-- R67, R68 and R70, and their frames: nothing changes but the report. -/
def Obligations.ControlFieldResults : Prop :=
  ∀ s : State, s.fault = none →
    exec .spritePatternTableAddr s =
        .next { s with reply := some (.value (.word (if s.regs.ctrl.toNat / 8 % 2 = 1 then 0x1000#16 else 0x0000#16))) } ∧
      exec .backgroundPatternTableAddr s =
        .next { s with reply := some (.value (.word (if s.regs.ctrl.toNat / 16 % 2 = 1 then 0x1000#16 else 0x0000#16))) } ∧
      exec .vblankNmiEnabled s =
        .next { s with reply := some (.value (.flag (decide (s.regs.ctrl.toNat / 128 % 2 = 1)))) }

/-- 40_regbank_decode.md section 1, sprite size. Which value of bit 5 selects which size is the spec's decision D4
(assumption 10). -/
def Obligations.SpriteSizeResult : Prop :=
  ∀ s : State, s.fault = none →
    exec .spriteSize s =
      .next { s with reply := some (.value (.size (if s.regs.ctrl.toNat / 32 % 2 = 1 then .size8x16 else .size8x8))) }

/-- 40_regbank_decode.md section 1 (rule R71): control bit 6 affects no operation. Flipping it before an operation that
does not overwrite the byte, or after it, is the same. Holding the bit without a meaning is the spec's decision D18
(assumption 15). -/
def Obligations.ControlBit6HasNoEffect : Prop :=
  ∀ (i : Instr) (s : State), i.writesCtrl = false →
    let flip (t : State) : State := { t with regs := { t.regs with ctrl := t.regs.ctrl ^^^ 0x40#8 } }
    (∀ t, exec i s = .next t → exec i (flip s) = .next (flip t)) ∧
      (∀ r, exec i s = .refused r → exec i (flip s) = .refused r)

/-! ## The accessors of the mask byte -/

/-- 40_regbank_decode.md section 2: the eight mask flags, and their frames. Which bit is which flag is the spec's decision D5
(assumption 11). -/
def Obligations.MaskFlagResults : Prop :=
  ∀ s : State, s.fault = none →
    let flag (k : Nat) : Host.Outcome State Fault Refusal :=
      .next { s with reply := some (.value (.flag (decide (s.regs.mask.toNat / 2 ^ k % 2 = 1)))) }
    exec .grayscale s = flag 0 ∧ exec .showBackgroundLeft s = flag 1 ∧ exec .showSpritesLeft s = flag 2 ∧
      exec .showBackground s = flag 3 ∧ exec .showSprites s = flag 4 ∧ exec .intensifyRed s = flag 5 ∧
      exec .intensifyGreen s = flag 6 ∧ exec .intensifyBlue s = flag 7

/-- R80: an accessor is a total function of the one stored byte it reads, writes no state, cannot fault, and sees a byte at
once when it is written. -/
def Obligations.AccessorsArePure : Prop :=
  (∀ i : Instr, i.readsCtrl = true → ∃ f : Byte → Value,
      (∀ s : State, s.fault = none → exec i s = .next { s with reply := some (.value (f s.regs.ctrl)) }) ∧
      ∀ (v : Byte) (s t : State), exec (.wrCtrl v) s = .next t →
        exec i t = .next { t with reply := some (.value (f v)) }) ∧
    (∀ i : Instr, i.readsMask = true → ∃ f : Byte → Value,
      (∀ s : State, s.fault = none → exec i s = .next { s with reply := some (.value (f s.regs.mask)) }) ∧
      ∀ (v : Byte) (s t : State), exec (.wrMask v) s = .next t →
        exec i t = .next { t with reply := some (.value (f v)) })

/-! ## The mutators and the register writes -/

/-- R85, R86, R87 and R111, R112, R114: the whole byte is stored, by the mutator and by the bus write that performs it, and
nothing else changes. R113: a bus write of the status register is accepted and changes nothing. -/
def Obligations.ByteSettersStoreWholeByte : Prop :=
  ∀ (s : State) (v : Byte), s.fault = none →
    exec (.setCtrl v) s = .next { s with regs := { s.regs with ctrl := v }, reply := some .done } ∧
      exec (.wrCtrl v) s = .next { s with regs := { s.regs with ctrl := v }, reply := some .done } ∧
      exec (.setMask v) s = .next { s with regs := { s.regs with mask := v }, reply := some .done } ∧
      exec (.wrMask v) s = .next { s with regs := { s.regs with mask := v }, reply := some .done } ∧
      exec (.setOamAddr v) s = .next { s with regs := { s.regs with oamAddr := v }, reply := some .done } ∧
      exec (.wrOamaddr v) s = .next { s with regs := { s.regs with oamAddr := v }, reply := some .done } ∧
      exec (.wrStatus v) s = .next { s with reply := some .done }

/-- 41_regbank_mutators.md section 2 (rules R88, R89, R90), and their frames. That each mutator has one boolean operand, on the
internal port, is the spec's decisions D13 and D14 (assumption 14). -/
def Obligations.StatusMutatorResults : Prop :=
  ∀ (s : State) (on : Bool), s.fault = none →
    exec (.setSpriteOverflow on) s =
        .next { s with
          regs := { s.regs with status := if on then s.regs.status ||| 0x20#8 else s.regs.status &&& 0xDF#8 }
          reply := some .done } ∧
      exec (.setSpriteZeroHit on) s =
        .next { s with
          regs := { s.regs with status := if on then s.regs.status ||| 0x40#8 else s.regs.status &&& 0xBF#8 }
          reply := some .done } ∧
      exec (.setInVblank on) s =
        .next { s with
          regs := { s.regs with status := if on then s.regs.status ||| 0x80#8 else s.regs.status &&& 0x7F#8 }
          reply := some .done }

/-- 41_regbank_mutators.md section 2: each status mutator gives its bit the value of its operand and leaves the other seven
bits as they were. -/
def Obligations.StatusMutatorsChangeOneBit : Prop :=
  ∀ (s : State) (on : Bool) (k : Nat), s.fault = none → k < 8 →
    (∃ t, exec (.setSpriteOverflow on) s = .next t ∧
      t.regs.status.getLsbD k = if k = 5 then on else s.regs.status.getLsbD k) ∧
    (∃ t, exec (.setSpriteZeroHit on) s = .next t ∧
      t.regs.status.getLsbD k = if k = 6 then on else s.regs.status.getLsbD k) ∧
    (∃ t, exec (.setInVblank on) s = .next t ∧
      t.regs.status.getLsbD k = if k = 7 then on else s.regs.status.getLsbD k)

/-- 10_state.md section 2 (rule R13): no step of the machine changes status bits 4:0, and none but the three mutators changes
the byte. That the low bits are held is the source's; that they are held at 0 is not claimed (assumptions 1 and 15). -/
def Obligations.StatusLowBitsHeldByEveryStep : Prop :=
  ∀ s t : State, step s = .next t →
    t.regs.status &&& 0x1F#8 = s.regs.status &&& 0x1F#8 ∧
      (t.regs.status = s.regs.status ∨
        ∃ (rest : List Request) (on : Bool),
          s.pending = .internal (.setSpriteOverflow on) :: rest ∨ s.pending = .internal (.setSpriteZeroHit on) :: rest ∨
            s.pending = .internal (.setInVblank on) :: rest)

/-- 41_regbank_mutators.md section 3 and 43_dispatcher.md section 2 (rules R91, R116): the scroll latch, on either port. That
the address latch is left alone is the spec's decision D24 (assumption 20). -/
def Obligations.ScrollWriteFillsByToggle : Prop :=
  ∀ (s : State) (v : Byte), s.fault = none →
    (s.regs.scroll.next = .xDir →
      exec (.scrollWrite v) s =
          .next { s with
            regs := { s.regs with scroll := { x := v, y := s.regs.scroll.y, next := .yDir } }, reply := some .done } ∧
        exec (.wrScroll v) s =
          .next { s with
            regs := { s.regs with scroll := { x := v, y := s.regs.scroll.y, next := .yDir } }, reply := some .done }) ∧
    (s.regs.scroll.next = .yDir →
      exec (.scrollWrite v) s =
          .next { s with
            regs := { s.regs with scroll := { x := s.regs.scroll.x, y := v, next := .xDir } }, reply := some .done } ∧
        exec (.wrScroll v) s =
          .next { s with
            regs := { s.regs with scroll := { x := s.regs.scroll.x, y := v, next := .xDir } }, reply := some .done })

/-- 41_regbank_mutators.md section 4 and 43_dispatcher.md section 2 (rules R92, R117): the address latch, on either port: the
old low byte becomes the high byte and the old high byte is lost. That the scroll toggle is left alone is the spec's decision
D24 (assumption 20), and that no bit is masked is D6 (assumption 12). -/
def Obligations.AddrWriteShiftsByteIn : Prop :=
  ∀ (s : State) (v : Byte), s.fault = none →
    exec (.addrWrite v) s =
        .next { s with regs := { s.regs with addr := s.regs.addr.extractLsb' 0 8 ++ v }, reply := some .done } ∧
      exec (.wrAddr v) s =
        .next { s with regs := { s.regs with addr := s.regs.addr.extractLsb' 0 8 ++ v }, reply := some .done }

/-- 70_reset_and_hazards.md section 3 (rule R154, the spec's own inference from R91 and R92; the interleaving rests on its
decision D24, assumption 20): the address latch has no phase; a single write turns `0xHHLL` into `0xLLvv` and a pair undoes it; interleaved with
scroll writes it assembles both values. -/
def Obligations.AddressLatchHasNoPhase : Prop :=
  ∀ (s : State) (rest : List Request) (hi lo x y : Byte) (m1 m2 m3 m4 : BitVec 10), s.fault = none →
    runFor 1 { s with pending := encodeAt m1 (.wrAddr lo) :: rest } =
        .next { s with
          regs := { s.regs with addr := s.regs.addr.extractLsb' 0 8 ++ lo }, pending := rest, reply := some .done } ∧
      runFor 2 { s with pending := encodeAt m1 (.wrAddr hi) :: encodeAt m2 (.wrAddr lo) :: rest } =
        .next { s with regs := { s.regs with addr := hi ++ lo }, pending := rest, reply := some .done } ∧
      (s.regs.scroll.next = .xDir →
        runFor 4 { s with
            pending := encodeAt m1 (.wrAddr hi) :: encodeAt m2 (.wrScroll x) :: encodeAt m3 (.wrAddr lo) ::
              encodeAt m4 (.wrScroll y) :: rest } =
          .next { s with
            regs := { s.regs with addr := hi ++ lo, scroll := { x := x, y := y, next := .xDir } }
            pending := rest, reply := some .done })

/-- 70_reset_and_hazards.md section 3 (rule R149, the spec's own inference from R92 and R36; that the fault is terminal is its
decision D9, assumption 6): after an address write the cursor is `0x4000` or above exactly when the previous low byte was `0x40` or above; that
is no fault, and a data write at such a cursor is fatal, with nothing stored through any address. -/
def Obligations.AddressWriteCanReachInvalidCursor : Prop :=
  ∀ (s : State) (v w : Byte), s.fault = none →
    ∃ t, exec (.wrAddr v) s = .next t ∧ t.fault = none ∧
      (0x4000 ≤ t.regs.addr.toNat ↔ 0x40 ≤ s.regs.addr.toNat % 256) ∧
      (0x4000 ≤ t.regs.addr.toNat → ∃ u, exec (.wrData w) t = .next u ∧ u.fault ≠ none ∧ u.vram = s.vram ∧
        ∀ i, exec i u = .refused .faulted)

/-! ## The VRAM operations -/

/-- 42_addressspace.md (rule R100): what a byte load returns in each of the three ranges, and the fault above them, with the
frame. The address in the fault is the spec's decision D10. -/
def Obligations.LoadResult : Prop :=
  ∀ (s : State) (a : Word), s.fault = none →
    (a ≤ 0x1FFF#16 →
      exec (.load a) s = .next { s with reply := some (.value (.byte (Config.chr (a.setWidth 13)))) }) ∧
    (0x2000#16 ≤ a → a ≤ 0x3EFF#16 →
      exec (.load a) s = .next { s with reply := some (.value (.byte (s.vram.nt.read (a &&& 0x0FFF#16).toNat))) }) ∧
    (0x3F00#16 ≤ a → a ≤ 0x3FFF#16 →
      exec (.load a) s = .next { s with reply := some (.value (.byte (s.vram.pal.read (a &&& 0x001F#16).toNat))) }) ∧
    (0x4000#16 ≤ a →
      exec (.load a) s =
        .next { s with fault := some (.invalidAddress a), reply := some (.failed (.invalidAddress a)) })

/-- 42_addressspace.md (rule R101): what a byte store leaves in each of the three ranges, and the fault above them, with the
frame. The address in the fault is the spec's decision D10. -/
def Obligations.StoreResult : Prop :=
  ∀ (s : State) (a : Word) (v : Byte), s.fault = none →
    (a ≤ 0x1FFF#16 → exec (.store a v) s = .next { s with reply := some .done }) ∧
    (0x2000#16 ≤ a → a ≤ 0x3EFF#16 →
      exec (.store a v) s =
        .next { s with
          vram := { s.vram with nt := s.vram.nt.write (a &&& 0x0FFF#16).toNat v }, reply := some .done }) ∧
    (0x3F00#16 ≤ a → a ≤ 0x3FFF#16 →
      exec (.store a v) s =
        .next { s with
          vram := { s.vram with pal := s.vram.pal.write (a &&& 0x001F#16).toNat v }, reply := some .done }) ∧
    (0x4000#16 ≤ a →
      exec (.store a v) s =
        .next { s with fault := some (.invalidAddress a), reply := some (.failed (.invalidAddress a)) })

/-- 42_addressspace.md (rule R102): a two-byte load is the two byte loads, low byte first, and succeeds exactly for bases up
to `0x3FFE`. The reported address is the spec's decisions D10 and D15. -/
def Obligations.Load16Result : Prop :=
  ∀ (s : State) (a : Word), s.fault = none →
    (a ≤ 0x3FFE#16 → ∃ lo hi : Byte, s.vram.load a = .ok lo ∧ s.vram.load (a + 1#16) = .ok hi ∧
      exec (.load16 a) s = .next { s with reply := some (.value (.word (hi ++ lo))) }) ∧
    (a = 0x3FFF#16 →
      exec (.load16 a) s =
        .next { s with fault := some (.invalidAddress 0x4000#16), reply := some (.failed (.invalidAddress 0x4000#16)) }) ∧
    (0x4000#16 ≤ a →
      exec (.load16 a) s =
        .next { s with fault := some (.invalidAddress a), reply := some (.failed (.invalidAddress a)) })

/-- 70_reset_and_hazards.md section 3 (rule R159, the spec's own inference from R102): a two-byte load at the end of a region or of the buffer takes its second byte from the next region or from the
buffer's start, one at the end of a logical nametable takes it from the next one, and at `0x3FFF` it faults. -/
def Obligations.Load16AcrossBoundaries : Prop :=
  ∀ s : State, s.fault = none →
    exec (.load16 0x1FFF#16) s =
        .next { s with reply := some (.value (.word (s.vram.nt.read 0x000 ++ Config.chr 0x1FFF#13))) } ∧
      exec (.load16 0x2FFF#16) s =
        .next { s with reply := some (.value (.word (s.vram.nt.read 0x000 ++ s.vram.nt.read 0xFFF))) } ∧
      exec (.load16 0x3EFF#16) s =
        .next { s with reply := some (.value (.word (s.vram.pal.read 0x00 ++ s.vram.nt.read 0xEFF))) } ∧
      (∀ n : Nat, n < 3 →
        exec (.load16 (BitVec.ofNat 16 (0x23FF + 0x400 * n))) s =
          .next { s with
            reply := some (.value (.word (s.vram.nt.read (0x400 * n + 0x400) ++ s.vram.nt.read (0x400 * n + 0x3FF)))) }) ∧
      (∀ j : Nat, j < 7 →
        exec (.load16 (BitVec.ofNat 16 (0x3F1F + 32 * j))) s =
          .next { s with reply := some (.value (.word (s.vram.pal.read 0x00 ++ s.vram.pal.read 0x1F))) }) ∧
      ∃ t, exec (.load16 0x3FFF#16) s = .next t ∧ t.fault ≠ none

/-- 20_memory.md section 6 (rule R46, the spec's own inference from R32 to R35): the alias sets, which addresses alias, and that a store through one address of a set is seen through every one. -/
def Obligations.AliasSets : Prop :=
  (∀ (a : Word) (i : BitVec 13), resolve a = some (.pattern i) ↔ a.toNat = i.toNat) ∧
    (∀ (a : Word) (i : BitVec 12), resolve a = some (.nametable i) ↔
      a.toNat = 0x2000 + i.toNat ∨ (i.toNat ≤ 0xEFF ∧ a.toNat = 0x3000 + i.toNat)) ∧
    (∀ (a : Word) (i : BitVec 5), resolve a = some (.palette i) ↔
      ∃ j : Nat, j < 8 ∧ a.toNat = 0x3F00 + i.toNat + 32 * j) ∧
    (∀ a b : Word, a ≤ 0x3FFF#16 → b ≤ 0x3FFF#16 → (resolve a = resolve b ↔ aliases a b)) ∧
    (∀ (s : State) (a b : Word) (v : Byte), s.Inv → s.fault = none → 0x2000#16 ≤ a → a ≤ 0x3FFF#16 → aliases a b →
      ∃ t, exec (.store a v) s = .next t ∧ exec (.load b) t = .next { t with reply := some (.value (.byte v)) })

/-- 42_addressspace.md (rule R104(a), (b), (e)): after a store every byte of the VRAM reads as before, but for the addresses
that alias the stored one, which read the stored byte unless they are in the pattern range. No register changes. -/
def Obligations.StoreChangesOneCell : Prop :=
  ∀ (s : State) (a b : Word) (v : Byte), s.Inv → s.fault = none → a ≤ 0x3FFF#16 →
    ∃ t, exec (.store a v) s = .next t ∧ t.regs = s.regs ∧ t.fault = none ∧ t.pending = s.pending ∧
      t.vram.load b = if 0x2000#16 ≤ a ∧ aliases a b then .ok v else s.vram.load b

/-- 42_addressspace.md (rule R104(c)): of two stores to one cell the later stands, as states. -/
def Obligations.LastStoreWins : Prop :=
  ∀ (s t : State) (a b : Word) (v w : Byte), s.Inv → exec (.store a v) s = .next t → t.fault = none → aliases a b →
    exec (.store b w) t = exec (.store b w) s

/-- 42_addressspace.md (rule R104(d)): stores to addresses that do not alias commute, as states. -/
def Obligations.StoresCommute : Prop :=
  ∀ (s t u : State) (a b : Word) (v w : Byte), s.Inv → a ≤ 0x3FFF#16 → b ≤ 0x3FFF#16 → ¬ aliases a b →
    exec (.store a v) s = .next t → exec (.store b w) s = .next u → exec (.store b w) t = exec (.store a v) u

/-! ## The data write -/

/-- 43_dispatcher.md section 2 (rule R118): a data write stores at the cursor of before and then advances it by 32 or 0; at a
cursor of `0x4000` or above it faults, with nothing stored and the cursor kept (the spec's decisions D8 and D10). -/
def Obligations.DataWriteStoresThenAdvances : Prop :=
  ∀ (s : State) (v : Byte), s.fault = none →
    (s.regs.addr ≤ 0x3FFF#16 → ∃ m, s.vram.store s.regs.addr v = .ok m ∧
      exec (.wrData v) s =
        .next { s with
          vram := m
          regs := { s.regs with addr := s.regs.addr + (if s.regs.ctrl.toNat / 4 % 2 = 1 then 32#16 else 0#16) }
          reply := some .done }) ∧
    (0x4000#16 ≤ s.regs.addr →
      exec (.wrData v) s =
        .next { s with
          fault := some (.invalidAddress s.regs.addr), reply := some (.failed (.invalidAddress s.regs.addr)) })

/-- 43_dispatcher.md section 2: the memory frame of a data write. Every byte reads as before, but for the addresses that alias
the cursor of before, which read the byte unless the cursor was in the pattern range. -/
def Obligations.DataWriteChangesOneCell : Prop :=
  ∀ (s : State) (b : Word) (v : Byte), s.Inv → s.fault = none → s.regs.addr ≤ 0x3FFF#16 →
    ∃ t, exec (.wrData v) s = .next t ∧
      t.vram.load b = if 0x2000#16 ≤ s.regs.addr ∧ aliases s.regs.addr b then .ok v else s.vram.load b

/-- 10_state.md section 3 (rule R17): the advance never wraps. After a data write that did not fault the cursor is the
old one plus 0 or 32 in plain arithmetic, at most `0x401F`. -/
def Obligations.CursorAdvanceNeverWraps : Prop :=
  ∀ (s t : State) (v : Byte), exec (.wrData v) s = .next t → t.fault = none →
    t.regs.addr.toNat = s.regs.addr.toNat + (if s.regs.ctrl.toNat / 4 % 2 = 1 then 32 else 0) ∧
      t.regs.addr.toNat ≤ 0x401F

/-- 70_reset_and_hazards.md section 3 (rule R148, the spec's own inference from R118 and R17; that the fault is terminal is its
decision D9, assumption 6): running off the top of VRAM. With stride 32 a data write in `0x3FE0` to `0x3FFF` succeeds and leaves the cursor in
`0x4000` to `0x401F`; the next data write faults and the block is terminal; two address writes before it avoid that; with
stride 0 the cursor does not move. -/
def Obligations.RunningOffTheTop : Prop :=
  ∀ (s : State) (v w hi lo : Byte), s.fault = none → 0x3FE0#16 ≤ s.regs.addr → s.regs.addr ≤ 0x3FFF#16 →
    ∃ t, exec (.wrData v) s = .next t ∧ t.fault = none ∧
      (s.regs.ctrl.toNat / 4 % 2 = 1 →
        0x4000#16 ≤ t.regs.addr ∧ t.regs.addr ≤ 0x401F#16 ∧
        (∃ u, exec (.wrData w) t = .next u ∧ u.fault ≠ none ∧ ∀ i, exec i u = .refused .faulted) ∧
        ∃ t1 t2, exec (.wrAddr hi) t = .next t1 ∧ exec (.wrAddr lo) t1 = .next t2 ∧ t2.fault = none ∧
          t2.regs.addr = hi ++ lo) ∧
      (s.regs.ctrl.toNat / 4 % 2 = 0 → t.regs.addr = s.regs.addr)

/-- 70_reset_and_hazards.md section 3 (rule R150): with control bit 2 clear, data writes one after another overwrite one cell
and the cursor stays; what stands is the last byte, as if it alone had been written. -/
def Obligations.ZeroStrideOverwritesOneCell : Prop :=
  ∀ (s : State) (xs : List (BitVec 10 × Byte)) (x : BitVec 10) (v : Byte) (rest : List Request), s.Inv → s.fault = none →
    s.regs.ctrl.toNat / 4 % 2 = 0 → s.regs.addr ≤ 0x3FFF#16 →
      ∃ m, s.vram.store s.regs.addr v = .ok m ∧
        runFor (xs.length + 1) { s with
            pending := xs.map (fun p => encodeAt p.1 (.wrData p.2)) ++ encodeAt x (.wrData v) :: rest } =
          .next { s with vram := m, pending := rest, reply := some .done }

/-- 70_reset_and_hazards.md section 3 (rule R151, the spec's own inference from R35 and R118): stride 32 in the palette. From `0x3F00 + i` up to eight data writes in a row succeed, all into `PAL[i]`, while the
cursor goes up by 32; after the eighth a data write faults. -/
def Obligations.PaletteStrideKeepsCell : Prop :=
  ∀ (s : State) (i : Nat) (xs : List (BitVec 10 × Byte)) (x : BitVec 10) (v w : Byte) (rest : List Request), s.Inv →
    s.fault = none → s.regs.ctrl.toNat / 4 % 2 = 1 → i < 32 → s.regs.addr.toNat = 0x3F00 + i → xs.length ≤ 7 →
      ∃ t, runFor (xs.length + 1) { s with
            pending := xs.map (fun p => encodeAt p.1 (.wrData p.2)) ++ encodeAt x (.wrData v) :: rest } = .next t ∧
        t.fault = none ∧ t.vram = { s.vram with pal := s.vram.pal.write i v } ∧
        t.regs = { s.regs with addr := BitVec.ofNat 16 (0x3F00 + i + 32 * (xs.length + 1)) } ∧
        (xs.length = 7 → ∃ u, exec (.wrData w) t = .next u ∧ u.fault ≠ none)

/-- 70_reset_and_hazards.md section 3 (rule R152, the spec's own inference from R101 and R118): a data write in the pattern range stores nothing, raises nothing and advances the cursor by the stride; with stride
32 such writes walk into the nametable range and begin to store there. -/
def Obligations.PatternRangeWritesWalkOn : Prop :=
  ∀ (s : State) (v w : Byte), s.fault = none → s.regs.addr ≤ 0x1FFF#16 →
    ∃ t, exec (.wrData v) s = .next t ∧
      t = { s with
        regs := { s.regs with addr := s.regs.addr + (if s.regs.ctrl.toNat / 4 % 2 = 1 then 32#16 else 0#16) }
        reply := some .done } ∧
      (s.regs.ctrl.toNat / 4 % 2 = 1 → 0x1FE0#16 ≤ s.regs.addr →
        ∃ u, exec (.wrData w) t = .next u ∧ u.fault = none ∧
          u.vram = { s.vram with nt := s.vram.nt.write (s.regs.addr.toNat - 0x1FE0) w })

/-- 70_reset_and_hazards.md section 3 (rule R156, the spec's own inference from R111 and R118): a write of the control byte takes effect at once: the data write before it used the old stride, the one after it
uses the new, and the cursor is not moved by the control write itself. -/
def Obligations.StrideChangeTakesEffectAtOnce : Prop :=
  ∀ (s : State) (c v w : Byte), s.fault = none → s.regs.addr.toNat + 32 ≤ 0x3FFF →
    ∃ t u z, exec (.wrData v) s = .next t ∧ exec (.wrCtrl c) t = .next u ∧ exec (.wrData w) u = .next z ∧
      t.regs.addr.toNat = s.regs.addr.toNat + (if s.regs.ctrl.toNat / 4 % 2 = 1 then 32 else 0) ∧
      u.regs.addr = t.regs.addr ∧
      z.regs.addr.toNat = t.regs.addr.toNat + (if c.toNat / 4 % 2 = 1 then 32 else 0)

/-- 70_reset_and_hazards.md section 3 (rule R155, the spec's own inference from R92 and R118): after one address write the cursor is the old low byte and the new byte; a data write there stores there and may
advance by 32, or faults if that cursor is invalid; the second address write shifts the advanced value. -/
def Obligations.DataWriteBetweenAddressWrites : Prop :=
  ∀ (s : State) (hi lo v : Byte), s.fault = none →
    ∃ t, exec (.wrAddr hi) s = .next t ∧ t.regs.addr = s.regs.addr.extractLsb' 0 8 ++ hi ∧
      (t.regs.addr ≤ 0x3FFF#16 → ∃ m u z, s.vram.store t.regs.addr v = .ok m ∧
        exec (.wrData v) t = .next u ∧ u.vram = m ∧
        u.regs.addr = t.regs.addr + (if s.regs.ctrl.toNat / 4 % 2 = 1 then 32#16 else 0#16) ∧
        exec (.wrAddr lo) u = .next z ∧ z.regs.addr = u.regs.addr.extractLsb' 0 8 ++ lo) ∧
      (0x4000#16 ≤ t.regs.addr → ∃ u, exec (.wrData v) t = .next u ∧ u.fault ≠ none)

/-! ## Faults and refusals -/

/-- 43_dispatcher.md section 2 and 42_addressspace.md (rules R115 and R103): the two operations whose effect is to raise
`Unimplemented`, at every operand; nothing else changes. The operation in the fault is the spec's decision D10, and that
`store16` does not look at its address is D16. -/
def Obligations.UnimplementedOperationsFault : Prop :=
  ∀ (s : State) (v : Byte) (a w : Word), s.fault = none →
    exec (.wrOamdata v) s =
        .next { s with
          fault := some (.unimplemented .wrOamdata), reply := some (.failed (.unimplemented .wrOamdata)) } ∧
      exec (.store16 a w) s =
        .next { s with fault := some (.unimplemented .store16), reply := some (.failed (.unimplemented .store16)) }

/-- 60_exceptions.md section 1 (rule R127): `Unimplemented` is raised by the OAM data write and by the two-byte store, always,
and by nothing else. That the two-byte store raises it at an address of `0x4000` or above too is the spec's decision D16
(assumption 16). -/
def Obligations.OnlyTwoOperationsRaiseUnimplemented : Prop :=
  ∀ (i : Instr) (s : State), s.fault = none →
    ((∃ t op, exec i s = .next t ∧ t.fault = some (.unimplemented op)) ↔
      (∃ v, i = .wrOamdata v) ∨ ∃ a w, i = .store16 a w)

/-- 60_exceptions.md section 1 (the table of rule R126): `InvalidAddress` is raised by, and only by, these accesses, with these
addresses. The reported addresses are the spec's decisions D10 and D15, and that the two-byte store is not among the accesses
is D16 (assumption 16). -/
def Obligations.InvalidAddressExactlyWhen : Prop :=
  ∀ (i : Instr) (s : State) (b : Word), s.fault = none →
    ((∃ t, exec i s = .next t ∧ t.fault = some (.invalidAddress b)) ↔
      (i = .load b ∧ 0x4000#16 ≤ b) ∨ (∃ v, i = .store b v ∧ 0x4000#16 ≤ b) ∨ (i = .load16 b ∧ 0x4000#16 ≤ b) ∨
        (i = .load16 0x3FFF#16 ∧ b = 0x4000#16) ∨ ∃ v, i = .wrData v ∧ s.regs.addr = b ∧ 0x4000#16 ≤ b)

/-- R128: the operations that never fault, in any state in which the block has not faulted. -/
def Obligations.TotalOperationsNeverFault : Prop :=
  ∀ (i : Instr) (s : State), s.fault = none →
    (match i with
      | .load a | .store a _ => a ≤ 0x3FFF#16
      | .load16 a => a ≤ 0x3FFE#16
      | .wrData _ => s.regs.addr ≤ 0x3FFF#16
      | .wrOamdata _ | .store16 _ _ | .rd _ => False
      | _ => True) →
      ∃ t, exec i s = .next t ∧ t.fault = none

/-- 60_exceptions.md section 3 (rule R130): an operation that faults has no effect but the fault and its report (the spec's
decisions D8 and D9). -/
def Obligations.FaultEntryChangesNothingElse : Prop :=
  ∀ (i : Instr) (s t : State) (f : Fault), exec i s = .next t → t.fault = some f →
    t = { s with fault := some f, reply := some (.failed f) }

/-- 60_exceptions.md section 3 (rule R131): a faulted block refuses every operation on either port and stays as it is (the
spec's decision D9). -/
def Obligations.FaultedBlockIsTerminal : Prop :=
  ∀ (s : State) (f : Fault), s.fault = some f →
    (∀ i, exec i s = .refused .faulted) ∧ (s.pending ≠ [] → step s = .refused .faulted) ∧
      ∀ k t, runFor k s = .next t → t = s

/-- 43_dispatcher.md section 3 (rule R119): a bus read is refused at every address (the spec's decision D11). -/
def Obligations.BusReadRefused : Prop :=
  ∀ (s : State) (a : Word), s.fault = none → exec (.rd a) s = .refused .noReadPath

/-- 60_exceptions.md section 3 (rule R132): the closed list of refusals, each with exactly the requests it meets; and a step
never ends in the host's outcome `fault` (assumption 6). That these requests are refused is the spec's own choice (D27):
`Faulted` is D9 (assumption 6), `NoReadPath` D11 (assumption 8) and `OutOfWindow` D12 (assumption 9). On a faulted block
`Faulted` comes first (assumption 7). -/
def Obligations.RefusalsAreTheClosedList : Prop :=
  ∀ s : State,
    (∀ r, step s = .refused r ↔
      (r = .faulted ∧ s.fault ≠ none ∧ s.pending ≠ []) ∨
      (r = .noReadPath ∧ s.fault = none ∧ ∃ a rest, s.pending = .busRead a :: rest) ∨
      (r = .outOfWindow ∧ s.fault = none ∧
        ∃ a v rest, s.pending = .busWrite a v :: rest ∧ (a < 0x2000#16 ∨ 0x3FFF#16 < a))) ∧
    ∀ f, step s ≠ .fault f

/-- 70_reset_and_hazards.md section 3 (rule R157, the spec's own inference from R115 and R131; that the run ends is its
decision D9, assumption 6): a write to any of the 1024 aliases of offset 4 faults and ends the run. -/
def Obligations.OamDataAliasesAreFatal : Prop :=
  ∀ (s : State) (j : Nat) (v : Byte) (rest : List Request), j < 1024 → s.fault = none →
    s.pending = .busWrite (BitVec.ofNat 16 (0x2004 + 8 * j)) v :: rest →
      ∃ t op, step s = .next t ∧ t.fault = some (.unimplemented op) ∧ t.regs = s.regs ∧ t.vram = s.vram ∧
        ∀ i, exec i t = .refused .faulted

/-! ## Whole-machine frames, invariants and runs -/

/-- 10_state.md section 1, the column "written by" (rule R10): what each operation can change. That the scroll latch and the
address latch leave each other alone is the spec's decision D24 (assumption 20). -/
def Obligations.OnlyNamedOperationsWriteEachElement : Prop :=
  ∀ (i : Instr) (s t : State), exec i s = .next t →
    (i.writesCtrl = false → t.regs.ctrl = s.regs.ctrl) ∧
      (i.writesMask = false → t.regs.mask = s.regs.mask) ∧
      (i.writesStatus = false → t.regs.status = s.regs.status) ∧
      (i.writesOamAddr = false → t.regs.oamAddr = s.regs.oamAddr) ∧
      (i.writesScroll = false → t.regs.scroll = s.regs.scroll) ∧
      (i.writesCursor = false → t.regs.addr = s.regs.addr) ∧
      (i.writesVram = false → t.vram = s.vram) ∧
      t.pending = s.pending

/-- 43_dispatcher.md section 3 (rule R123, the spec's own inference from R111 to R118): what a bus write never does. That an
address write leaves the toggle and a scroll write the cursor is the spec's decision D24 (assumption 20). -/
def Obligations.BusWriteFootprint : Prop :=
  ∀ (a : Word) (v : Byte) (s t : State) (rest : List Request), s.pending = .busWrite a v :: rest → step s = .next t →
    t.regs.status = s.regs.status ∧
      (∀ b : Word, b ≤ 0x1FFF#16 → t.vram.load b = s.vram.load b) ∧
      (∀ c : CellRef, resolve s.regs.addr ≠ some c → t.vram.readCell c = s.vram.readCell c) ∧
      (a &&& 7#16 ≠ 5#16 → t.regs.scroll.next = s.regs.scroll.next) ∧
      (a &&& 7#16 ≠ 6#16 → a &&& 7#16 ≠ 7#16 → t.regs.addr = s.regs.addr) ∧
      (a &&& 7#16 ≠ 7#16 → t.vram = s.vram) ∧
      ∀ x, t.reply ≠ some (.value x)

/-- 60_exceptions.md section 5 (rule R134): the CPU cannot change `status` at all: no run of requests from the CPU-bus port
does. -/
def Obligations.CpuBusCannotChangeStatus : Prop :=
  ∀ (k : Nat) (s t : State), (∀ r ∈ s.pending, fromCpuBus r = true) → runFor k s = .next t →
    t.regs.status = s.regs.status

/-- 10_state.md section 3 (rule R16): the toggle alternates on every scroll write and on nothing else (that an address write
leaves it alone is the spec's decision D24, assumption 20): after any run of issued operations it is what it was
exactly when the number of scroll writes among them is even; and it starts from `XDir`. -/
def Obligations.ToggleFollowsScrollParity : Prop :=
  State.reset.regs.scroll.next = .xDir ∧
    (∀ s t : State, RunEnds s t →
      (t.regs.scroll.next = s.regs.scroll.next ↔ s.pending.countP isScrollWrite % 2 = 0)) ∧
    ∀ (ops : List Request) (t : State), RunEnds { State.reset with pending := ops } t →
      (t.regs.scroll.next = .xDir ↔ ops.countP isScrollWrite % 2 = 0)

/-- The invariant: the two buffers keep their canonical form inside their bounds, so that equal contents are equal states, and
a faulted block's last report is its fault. Every step keeps it, from every state that has it. -/
def Obligations.InvariantKeptByEveryStep : Prop := ∀ s t : State, s.Inv → step s = .next t → t.Inv

/-- 60_exceptions.md section 1 and 70_reset_and_hazards.md sections 2 and 5 (rules R128, R147, R163): from every state that
has not faulted, a list of requests of the total operations runs to its end and the run is successful. -/
def Obligations.TotalOperationsRunToSuccess : Prop :=
  ∀ (s : State), s.fault = none → (∀ r ∈ s.pending, ∃ i, decode r = .ok i ∧ i.alwaysCompletes = true) →
    ∃ t, SuccessfulRun s t ∧ t.pending = []
end

