-- ==== Sys2Proof/Laws/Decode.lean ====
section
/-! SUPPORT. The fields of a bus address (spec/30_encoding.md R50) as arithmetic, and what the decoder answers. -/

namespace Sys2Proof

@[simp] theorem winField_toNat (a : Word) : (winField a).toNat = a.toNat / 8192 % 8 := by
  simp [winField, Nat.shiftRight_eq_div_pow]

@[simp] theorem mirrorField_toNat (a : Word) : (mirrorField a).toNat = a.toNat / 8 % 1024 := by
  simp [mirrorField, Nat.shiftRight_eq_div_pow]

@[simp] theorem regField_toNat (a : Word) : (regField a).toNat = a.toNat % 8 := by
  simp [regField]

/-- R50: the field `win` is `0b001` exactly in the window. -/
theorem winField_eq_one_iff (a : Word) : winField a = 0b001#3 ↔ inWindow a = true := by
  have h := a.isLt
  rw [← BitVec.toNat_inj]
  simp [inWindow, BitVec.le_def]
  omega

theorem busAddress_toNat (x : BitVec 10) (k : BitVec 3) : (busAddress x k).toNat = 8192 + 8 * x.toNat + k.toNat := by
  have hx := x.isLt
  have hk := k.isLt
  simp only [busAddress, BitVec.toNat_append]
  rw [← Nat.shiftLeft_add_eq_or_of_lt hk, ← Nat.shiftLeft_add_eq_or_of_lt hx, Nat.shiftLeft_eq, Nat.shiftLeft_eq]
  simp
  omega

theorem winField_busAddress (x : BitVec 10) (k : BitVec 3) : winField (busAddress x k) = 0b001#3 := by
  have hx := x.isLt
  have hk := k.isLt
  rw [← BitVec.toNat_inj, winField_toNat, busAddress_toNat]
  simp
  omega

theorem regField_busAddress (x : BitVec 10) (k : BitVec 3) : regField (busAddress x k) = k := by
  have hk := k.isLt
  rw [← BitVec.toNat_inj, regField_toNat, busAddress_toNat]
  omega

/-- Every address of the window is a mirror of its offset. -/
theorem busAddress_fields {a : Word} (h : inWindow a = true) : busAddress (mirrorField a) (regField a) = a := by
  rw [← winField_eq_one_iff, ← BitVec.toNat_inj] at h
  have ha := a.isLt
  rw [winField_toNat] at h
  rw [← BitVec.toNat_inj, busAddress_toNat, mirrorField_toNat, regField_toNat]
  simp at h
  omega

/-- R110: in the window the offset selects the operation. -/
theorem decode_busWrite_inWindow {a : Word} (h : inWindow a = true) (v : Byte) :
    decode (.busWrite a v) = .ok (busWriteOp (regField a) v) := by
  simp [decode, decodeBusWrite, (winField_eq_one_iff a).mpr h]

/-- R52: outside the window a write is rejected. -/
theorem decode_busWrite_outOfWindow {a : Word} (h : inWindow a = false) (v : Byte) :
    decode (.busWrite a v) = .error (.outOfWindow a) := by
  have : ¬ winField a = 0b001#3 := by simp [winField_eq_one_iff, h]
  simp [decode, decodeBusWrite, this]

/-- A bus write that decodes is in the window and asks for the operation of its offset. -/
theorem decode_busWrite_ok {a : Word} {v : Byte} {i : Instr} (h : decode (.busWrite a v) = .ok i) :
    inWindow a = true ∧ i = busWriteOp (regField a) v := by
  simp only [decode, decodeBusWrite] at h
  split at h
  · cases h
    exact ⟨(winField_eq_one_iff a).mp ‹_›, rfl⟩
  · cases h

/-- A bus write at any mirror of an offset asks for the operation of that offset. -/
theorem decode_busAddress (x : BitVec 10) (k : BitVec 3) (v : Byte) :
    decode (.busWrite (busAddress x k) v) = .ok (busWriteOp k v) := by
  simp [decode, decodeBusWrite, winField_busAddress, regField_busAddress]

/-- The offset, one case each. -/
theorem offset_cases (k : BitVec 3) : k = 0 ∨ k = 1 ∨ k = 2 ∨ k = 3 ∨ k = 4 ∨ k = 5 ∨ k = 6 ∨ k = 7 := by
  revert k
  decide

end Sys2Proof
end

