-- ==== Sys2Proof/Laws/State.lean ====
section
/-! SUPPORT. One lemma per field per update, true by rfl. -/

namespace Sys2Proof.Machine

@[simp] theorem Regs.setCtrl_ctrl (r : Regs) (v : Byte) : (r.setCtrl v).ctrl = v := rfl
@[simp] theorem Regs.setCtrl_mask (r : Regs) (v : Byte) : (r.setCtrl v).mask = r.mask := rfl
@[simp] theorem Regs.setCtrl_status (r : Regs) (v : Byte) : (r.setCtrl v).status = r.status := rfl
@[simp] theorem Regs.setCtrl_oamAddr (r : Regs) (v : Byte) : (r.setCtrl v).oamAddr = r.oamAddr := rfl
@[simp] theorem Regs.setCtrl_scroll (r : Regs) (v : Byte) : (r.setCtrl v).scroll = r.scroll := rfl
@[simp] theorem Regs.setCtrl_addr (r : Regs) (v : Byte) : (r.setCtrl v).addr = r.addr := rfl

@[simp] theorem Regs.setMask_ctrl (r : Regs) (v : Byte) : (r.setMask v).ctrl = r.ctrl := rfl
@[simp] theorem Regs.setMask_mask (r : Regs) (v : Byte) : (r.setMask v).mask = v := rfl
@[simp] theorem Regs.setMask_status (r : Regs) (v : Byte) : (r.setMask v).status = r.status := rfl
@[simp] theorem Regs.setMask_oamAddr (r : Regs) (v : Byte) : (r.setMask v).oamAddr = r.oamAddr := rfl
@[simp] theorem Regs.setMask_scroll (r : Regs) (v : Byte) : (r.setMask v).scroll = r.scroll := rfl
@[simp] theorem Regs.setMask_addr (r : Regs) (v : Byte) : (r.setMask v).addr = r.addr := rfl

@[simp] theorem Regs.setOamAddr_ctrl (r : Regs) (v : Byte) : (r.setOamAddr v).ctrl = r.ctrl := rfl
@[simp] theorem Regs.setOamAddr_mask (r : Regs) (v : Byte) : (r.setOamAddr v).mask = r.mask := rfl
@[simp] theorem Regs.setOamAddr_status (r : Regs) (v : Byte) : (r.setOamAddr v).status = r.status := rfl
@[simp] theorem Regs.setOamAddr_oamAddr (r : Regs) (v : Byte) : (r.setOamAddr v).oamAddr = v := rfl
@[simp] theorem Regs.setOamAddr_scroll (r : Regs) (v : Byte) : (r.setOamAddr v).scroll = r.scroll := rfl
@[simp] theorem Regs.setOamAddr_addr (r : Regs) (v : Byte) : (r.setOamAddr v).addr = r.addr := rfl

@[simp] theorem Regs.setSpriteOverflow_ctrl (r : Regs) (on : Bool) : (r.setSpriteOverflow on).ctrl = r.ctrl := rfl
@[simp] theorem Regs.setSpriteOverflow_mask (r : Regs) (on : Bool) : (r.setSpriteOverflow on).mask = r.mask := rfl
@[simp] theorem Regs.setSpriteOverflow_status (r : Regs) (on : Bool) : (r.setSpriteOverflow on).status = withSpriteOverflow r.status on := rfl
@[simp] theorem Regs.setSpriteOverflow_oamAddr (r : Regs) (on : Bool) : (r.setSpriteOverflow on).oamAddr = r.oamAddr := rfl
@[simp] theorem Regs.setSpriteOverflow_scroll (r : Regs) (on : Bool) : (r.setSpriteOverflow on).scroll = r.scroll := rfl
@[simp] theorem Regs.setSpriteOverflow_addr (r : Regs) (on : Bool) : (r.setSpriteOverflow on).addr = r.addr := rfl

@[simp] theorem Regs.setSpriteZeroHit_ctrl (r : Regs) (on : Bool) : (r.setSpriteZeroHit on).ctrl = r.ctrl := rfl
@[simp] theorem Regs.setSpriteZeroHit_mask (r : Regs) (on : Bool) : (r.setSpriteZeroHit on).mask = r.mask := rfl
@[simp] theorem Regs.setSpriteZeroHit_status (r : Regs) (on : Bool) : (r.setSpriteZeroHit on).status = withSpriteZeroHit r.status on := rfl
@[simp] theorem Regs.setSpriteZeroHit_oamAddr (r : Regs) (on : Bool) : (r.setSpriteZeroHit on).oamAddr = r.oamAddr := rfl
@[simp] theorem Regs.setSpriteZeroHit_scroll (r : Regs) (on : Bool) : (r.setSpriteZeroHit on).scroll = r.scroll := rfl
@[simp] theorem Regs.setSpriteZeroHit_addr (r : Regs) (on : Bool) : (r.setSpriteZeroHit on).addr = r.addr := rfl

@[simp] theorem Regs.setInVblank_ctrl (r : Regs) (on : Bool) : (r.setInVblank on).ctrl = r.ctrl := rfl
@[simp] theorem Regs.setInVblank_mask (r : Regs) (on : Bool) : (r.setInVblank on).mask = r.mask := rfl
@[simp] theorem Regs.setInVblank_status (r : Regs) (on : Bool) : (r.setInVblank on).status = withInVblank r.status on := rfl
@[simp] theorem Regs.setInVblank_oamAddr (r : Regs) (on : Bool) : (r.setInVblank on).oamAddr = r.oamAddr := rfl
@[simp] theorem Regs.setInVblank_scroll (r : Regs) (on : Bool) : (r.setInVblank on).scroll = r.scroll := rfl
@[simp] theorem Regs.setInVblank_addr (r : Regs) (on : Bool) : (r.setInVblank on).addr = r.addr := rfl

@[simp] theorem Regs.scrollWrite_ctrl (r : Regs) (v : Byte) : (r.scrollWrite v).ctrl = r.ctrl := rfl
@[simp] theorem Regs.scrollWrite_mask (r : Regs) (v : Byte) : (r.scrollWrite v).mask = r.mask := rfl
@[simp] theorem Regs.scrollWrite_status (r : Regs) (v : Byte) : (r.scrollWrite v).status = r.status := rfl
@[simp] theorem Regs.scrollWrite_oamAddr (r : Regs) (v : Byte) : (r.scrollWrite v).oamAddr = r.oamAddr := rfl
@[simp] theorem Regs.scrollWrite_scroll (r : Regs) (v : Byte) : (r.scrollWrite v).scroll = r.scroll.fill v := rfl
@[simp] theorem Regs.scrollWrite_addr (r : Regs) (v : Byte) : (r.scrollWrite v).addr = r.addr := rfl

@[simp] theorem Regs.addrWrite_ctrl (r : Regs) (v : Byte) : (r.addrWrite v).ctrl = r.ctrl := rfl
@[simp] theorem Regs.addrWrite_mask (r : Regs) (v : Byte) : (r.addrWrite v).mask = r.mask := rfl
@[simp] theorem Regs.addrWrite_status (r : Regs) (v : Byte) : (r.addrWrite v).status = r.status := rfl
@[simp] theorem Regs.addrWrite_oamAddr (r : Regs) (v : Byte) : (r.addrWrite v).oamAddr = r.oamAddr := rfl
@[simp] theorem Regs.addrWrite_scroll (r : Regs) (v : Byte) : (r.addrWrite v).scroll = r.scroll := rfl
@[simp] theorem Regs.addrWrite_addr (r : Regs) (v : Byte) : (r.addrWrite v).addr = shiftIn r.addr v := rfl

@[simp] theorem Regs.advance_ctrl (r : Regs) : r.advance.ctrl = r.ctrl := rfl
@[simp] theorem Regs.advance_mask (r : Regs) : r.advance.mask = r.mask := rfl
@[simp] theorem Regs.advance_status (r : Regs) : r.advance.status = r.status := rfl
@[simp] theorem Regs.advance_oamAddr (r : Regs) : r.advance.oamAddr = r.oamAddr := rfl
@[simp] theorem Regs.advance_scroll (r : Regs) : r.advance.scroll = r.scroll := rfl
@[simp] theorem Regs.advance_addr (r : Regs) : r.advance.addr = r.addr + vramAddrIncrementOf r.ctrl := rfl

@[simp] theorem State.withRegs_regs (s : State) (r : Regs) : (s.withRegs r).regs = r := rfl
@[simp] theorem State.withRegs_vram (s : State) (r : Regs) : (s.withRegs r).vram = s.vram := rfl
@[simp] theorem State.withRegs_fault (s : State) (r : Regs) : (s.withRegs r).fault = s.fault := rfl
@[simp] theorem State.withRegs_pending (s : State) (r : Regs) : (s.withRegs r).pending = s.pending := rfl
@[simp] theorem State.withRegs_reply (s : State) (r : Regs) : (s.withRegs r).reply = s.reply := rfl

@[simp] theorem State.withVram_regs (s : State) (m : Vram) : (s.withVram m).regs = s.regs := rfl
@[simp] theorem State.withVram_vram (s : State) (m : Vram) : (s.withVram m).vram = m := rfl
@[simp] theorem State.withVram_fault (s : State) (m : Vram) : (s.withVram m).fault = s.fault := rfl
@[simp] theorem State.withVram_pending (s : State) (m : Vram) : (s.withVram m).pending = s.pending := rfl
@[simp] theorem State.withVram_reply (s : State) (m : Vram) : (s.withVram m).reply = s.reply := rfl

@[simp] theorem State.withReply_regs (s : State) (r : Reply) : (s.withReply r).regs = s.regs := rfl
@[simp] theorem State.withReply_vram (s : State) (r : Reply) : (s.withReply r).vram = s.vram := rfl
@[simp] theorem State.withReply_fault (s : State) (r : Reply) : (s.withReply r).fault = s.fault := rfl
@[simp] theorem State.withReply_pending (s : State) (r : Reply) : (s.withReply r).pending = s.pending := rfl
@[simp] theorem State.withReply_reply (s : State) (r : Reply) : (s.withReply r).reply = some r := rfl

@[simp] theorem State.withPending_regs (s : State) (q : List Request) : (s.withPending q).regs = s.regs := rfl
@[simp] theorem State.withPending_vram (s : State) (q : List Request) : (s.withPending q).vram = s.vram := rfl
@[simp] theorem State.withPending_fault (s : State) (q : List Request) : (s.withPending q).fault = s.fault := rfl
@[simp] theorem State.withPending_pending (s : State) (q : List Request) : (s.withPending q).pending = q := rfl
@[simp] theorem State.withPending_reply (s : State) (q : List Request) : (s.withPending q).reply = s.reply := rfl

@[simp] theorem State.takeFault_regs (s : State) (f : Fault) : (s.takeFault f).regs = s.regs := rfl
@[simp] theorem State.takeFault_vram (s : State) (f : Fault) : (s.takeFault f).vram = s.vram := rfl
@[simp] theorem State.takeFault_fault (s : State) (f : Fault) : (s.takeFault f).fault = s.fault.or (some f) := rfl
@[simp] theorem State.takeFault_pending (s : State) (f : Fault) : (s.takeFault f).pending = s.pending := rfl
@[simp] theorem State.takeFault_reply (s : State) (f : Fault) : (s.takeFault f).reply = some (.failed f) := rfl

@[simp] theorem State.issueFirst_regs (s : State) (r : Request) : (s.issueFirst r).regs = s.regs := rfl
@[simp] theorem State.issueFirst_vram (s : State) (r : Request) : (s.issueFirst r).vram = s.vram := rfl
@[simp] theorem State.issueFirst_fault (s : State) (r : Request) : (s.issueFirst r).fault = s.fault := rfl
@[simp] theorem State.issueFirst_pending (s : State) (r : Request) : (s.issueFirst r).pending = r :: s.pending := rfl
@[simp] theorem State.issueFirst_reply (s : State) (r : Request) : (s.issueFirst r).reply = s.reply := rfl

end Sys2Proof.Machine
end

