-- ==== Sys2Proof/Laws/Exec.lean ====
section
/-! SUPPORT. What performing an operation can come to: the spec lemmas of `perform`, and one equation that says what each
operation hands to it. -/

namespace Sys2Proof.Machine

/-! The shared operations on a block that has not faulted. -/

theorem whenLive_live {s : State} (h : s.fault = none) (o : Host.Outcome State Fault Refusal) : whenLive s o = o := by
  simp [whenLive, h]

theorem whenLive_faulted {s : State} {f : Fault} (h : s.fault = some f) (o : Host.Outcome State Fault Refusal) :
    whenLive s o = .refused .faulted := by
  simp [whenLive, h]

theorem perform_ok {s : State} (h : s.fault = none) (t : State) (r : Reply) :
    perform s (.ok (t, r)) = .next (t.withReply r) := by
  simp [perform, whenLive_live h]

theorem perform_error {s : State} (h : s.fault = none) (f : Fault) : perform s (.error f) = .next (s.takeFault f) := by
  simp [perform, whenLive_live h]

theorem perform_faulted {s : State} {f : Fault} (h : s.fault = some f) (e : Effect) :
    perform s e = .refused .faulted := whenLive_faulted h _

/-- On a live block a fault is entered whole (R130). -/
theorem takeFault_live {s : State} (h : s.fault = none) (f : Fault) :
    s.takeFault f = { s with fault := some f, reply := some (.failed f) } := by
  simp [State.takeFault, h]

/-- A performed operation that answers a next state was issued to a live block, and either took its whole effect or its
fault. -/
theorem perform_next {s t : State} {e : Effect} (h : perform s e = .next t) :
    s.fault = none ∧ ((∃ u r, e = .ok (u, r) ∧ t = u.withReply r) ∨ ∃ f, e = .error f ∧ t = s.takeFault f) := by
  rcases hf : s.fault with _ | g
  · refine ⟨rfl, ?_⟩
    rcases e with f | ⟨u, r⟩
    · rw [perform_error hf] at h
      cases h
      exact .inr ⟨f, rfl, rfl⟩
    · rw [perform_ok hf] at h
      cases h
      exact .inl ⟨u, r, rfl, rfl⟩
  · rw [perform_faulted hf] at h
    cases h

/-- A performed operation is refused only by a faulted block. -/
theorem perform_refused {s : State} {e : Effect} {r : Refusal} (h : perform s e = .refused r) :
    r = .faulted ∧ s.fault ≠ none := by
  rcases hf : s.fault with _ | g
  · rcases e with f | ⟨u, r⟩
    · rw [perform_error hf] at h
      cases h
    · rw [perform_ok hf] at h
      cases h
  · rw [perform_faulted hf] at h
    cases h
    exact ⟨rfl, by simp⟩

/-- The host's outcome `fault` does not occur (assumption 6). -/
theorem perform_ne_fault (s : State) (e : Effect) (f : Fault) : perform s e ≠ .fault f := by
  rcases hf : s.fault with _ | g
  · rcases e with f | ⟨u, r⟩
    · rw [perform_error hf]
      simp
    · rw [perform_ok hf]
      simp
  · rw [perform_faulted hf]
    simp

/-! What each operation hands to `perform`. -/

/-- The effect of an operation on a block that has not faulted; the bus read has none. -/
def effectOf (i : Instr) (s : State) : Option Effect :=
  match i with
  | .wrCtrl v => some (.ok (s.withRegs (s.regs.setCtrl v), .done))
  | .wrMask v => some (.ok (s.withRegs (s.regs.setMask v), .done))
  | .wrStatus _ => some (.ok (s, .done))
  | .wrOamaddr v => some (.ok (s.withRegs (s.regs.setOamAddr v), .done))
  | .wrOamdata _ => some (.error (.unimplemented .wrOamdata))
  | .wrScroll v => some (.ok (s.withRegs (s.regs.scrollWrite v), .done))
  | .wrAddr v => some (.ok (s.withRegs (s.regs.addrWrite v), .done))
  | .wrData v => some (dataWriteEffect s v)
  | .rd _ => none
  | .baseNametableAddr => some (.ok (s, .value (.word (baseNametableAddrOf s.regs.ctrl))))
  | .vramAddrIncrement => some (.ok (s, .value (.word (vramAddrIncrementOf s.regs.ctrl))))
  | .spritePatternTableAddr => some (.ok (s, .value (.word (spritePatternTableAddrOf s.regs.ctrl))))
  | .backgroundPatternTableAddr => some (.ok (s, .value (.word (backgroundPatternTableAddrOf s.regs.ctrl))))
  | .spriteSize => some (.ok (s, .value (.size (spriteSizeOf s.regs.ctrl))))
  | .vblankNmiEnabled => some (.ok (s, .value (.flag (vblankNmiEnabledOf s.regs.ctrl))))
  | .grayscale => some (.ok (s, .value (.flag (grayscaleOf s.regs.mask))))
  | .showBackgroundLeft => some (.ok (s, .value (.flag (showBackgroundLeftOf s.regs.mask))))
  | .showSpritesLeft => some (.ok (s, .value (.flag (showSpritesLeftOf s.regs.mask))))
  | .showBackground => some (.ok (s, .value (.flag (showBackgroundOf s.regs.mask))))
  | .showSprites => some (.ok (s, .value (.flag (showSpritesOf s.regs.mask))))
  | .intensifyRed => some (.ok (s, .value (.flag (intensifyRedOf s.regs.mask))))
  | .intensifyGreen => some (.ok (s, .value (.flag (intensifyGreenOf s.regs.mask))))
  | .intensifyBlue => some (.ok (s, .value (.flag (intensifyBlueOf s.regs.mask))))
  | .setCtrl v => some (.ok (s.withRegs (s.regs.setCtrl v), .done))
  | .setMask v => some (.ok (s.withRegs (s.regs.setMask v), .done))
  | .setOamAddr v => some (.ok (s.withRegs (s.regs.setOamAddr v), .done))
  | .setSpriteOverflow on => some (.ok (s.withRegs (s.regs.setSpriteOverflow on), .done))
  | .setSpriteZeroHit on => some (.ok (s.withRegs (s.regs.setSpriteZeroHit on), .done))
  | .setInVblank on => some (.ok (s.withRegs (s.regs.setInVblank on), .done))
  | .scrollWrite v => some (.ok (s.withRegs (s.regs.scrollWrite v), .done))
  | .addrWrite v => some (.ok (s.withRegs (s.regs.addrWrite v), .done))
  | .load a => some (((s.vram.load a).map Value.byte).map fun x => (s, .value x))
  | .store a v => some (storeEffect s a v)
  | .load16 a => some (((s.vram.load16 a).map Value.word).map fun x => (s, .value x))
  | .store16 _ _ => some (.error (.unimplemented .store16))

/-- Every operation but the bus read performs its effect. -/
theorem exec_eq_perform {i : Instr} {s : State} {e : Effect} (h : effectOf i s = some e) : exec i s = perform s e := by
  cases i <;> cases h <;> rfl

/-- The bus read is refused. -/
theorem exec_rd (a : Word) (s : State) : exec (.rd a) s = refuse s .noReadPath := rfl

/-- An operation either performs its effect or is the bus read. -/
theorem exec_cases (i : Instr) (s : State) :
    (∃ e, effectOf i s = some e ∧ exec i s = perform s e) ∨ ∃ a, i = .rd a := by
  cases i with
  | rd a => exact .inr ⟨a, rfl⟩
  | _ => exact .inl ⟨_, rfl, rfl⟩

/-- An operation that answers a next state was issued to a live block, and either took its whole effect or its fault. -/
theorem exec_next {i : Instr} {s t : State} (h : exec i s = .next t) :
    s.fault = none ∧ ∃ e, effectOf i s = some e ∧
      ((∃ u r, e = .ok (u, r) ∧ t = u.withReply r) ∨ ∃ f, e = .error f ∧ t = s.takeFault f) := by
  rcases exec_cases i s with ⟨e, he, hp⟩ | ⟨a, rfl⟩
  · rw [hp] at h
    obtain ⟨hf, hc⟩ := perform_next h
    exact ⟨hf, e, he, hc⟩
  · rw [exec_rd, refuse] at h
    rcases hf : s.fault with _ | g
    · rw [whenLive_live hf] at h
      cases h
    · rw [whenLive_faulted hf] at h
      cases h

end Sys2Proof.Machine
end

