-- ==== Sys2Proof/Laws/Memory.lean ====
section
/-! SUPPORT. The laws of a canonical buffer: reading what was written, leaving every other index alone, keeping the canonical
form, and two writes to one index or to two. -/

namespace Sys2Proof.Machine

namespace Memory

@[simp] theorem read_nil (k : Nat) : Memory.read [] k = unlisted := rfl

theorem wf_nil (size : Nat) : Memory.wf size [] := ⟨List.Pairwise.nil, by simp⟩

/-- Nothing at or below an index that every entry exceeds. -/
theorem read_of_lt {m : Memory} {k : Nat} (h : ∀ c ∈ m, k < c.1) : Memory.read m k = unlisted := by
  induction m with
  | nil => rfl
  | cons c rest ih =>
    obtain ⟨j, b⟩ := c
    have hj : k < j := h (j, b) (by simp)
    have : ¬ j = k := by omega
    simp only [Memory.read, this, if_false]
    exact ih fun c hc => h c (by simp [hc])

theorem wf_tail {size : Nat} {c : Host.Cell} {m : Memory} (h : Memory.wf size (c :: m)) : Memory.wf size m :=
  ⟨h.1.of_cons, fun d hd => h.2 d (by simp [hd])⟩

theorem lt_of_wf_cons {size : Nat} {c : Host.Cell} {m : Memory} (h : Memory.wf size (c :: m)) : ∀ d ∈ m, c.1 < d.1 :=
  (List.pairwise_cons.mp h.1).1

/-- A write leaves every other index alone, in any list. -/
theorem read_write_other (m : Memory) {k k' : Nat} (v : Byte) (hk : k' ≠ k) :
    Memory.read (Memory.write m k v) k' = Memory.read m k' := by
  induction m with
  | nil =>
    simp only [Memory.write]
    split <;> simp [Memory.read, hk.symm]
  | cons c rest ih =>
    obtain ⟨j, b⟩ := c
    simp only [Memory.write]
    split
    · split <;> simp [Memory.read, hk.symm]
    · split
      · subst j
        split <;> simp [Memory.read, hk.symm]
      · simp only [Memory.read, ih]

/-- A write reads back, in a canonical buffer. -/
theorem read_write_same {size : Nat} {m : Memory} (h : Memory.wf size m) (k : Nat) (v : Byte) :
    Memory.read (Memory.write m k v) k = v := by
  induction m with
  | nil =>
    simp only [Memory.write]
    split <;> simp_all [Memory.read]
  | cons c rest ih =>
    obtain ⟨j, b⟩ := c
    have hlt := lt_of_wf_cons h
    simp only [Memory.write]
    split
    · split
      · subst v
        apply read_of_lt
        intro d hd
        rcases List.mem_cons.mp hd with rfl | hd
        · assumption
        · have := hlt d hd
          simp only at this
          omega
      · simp [Memory.read]
    · split
      · subst j
        split
        · subst v
          exact read_of_lt hlt
        · simp [Memory.read]
      · rename_i h1 h2
        have : ¬ j = k := fun e => h2 e.symm
        simp only [Memory.read, this, if_false]
        exact ih (wf_tail h)

/-- The indices of a written buffer: those of before, and the one written. -/
theorem mem_write {m : Memory} {k : Nat} {v : Byte} {c : Host.Cell} (hc : c ∈ Memory.write m k v) :
    c ∈ m ∨ c = (k, v) ∧ v ≠ unlisted := by
  induction m with
  | nil =>
    simp only [Memory.write] at hc
    split at hc <;> simp_all
  | cons d rest ih =>
    obtain ⟨j, b⟩ := d
    simp only [Memory.write] at hc
    split at hc
    · split at hc <;> simp_all
      tauto
    · split at hc
      · split at hc <;> simp_all
        tauto
      · rcases List.mem_cons.mp hc with rfl | hc
        · simp
        · rcases ih hc with h | h
          · simp [h]
          · exact Or.inr h

/-- A write keeps the canonical form. -/
theorem write_wf {size : Nat} {m : Memory} (h : Memory.wf size m) {k : Nat} (hk : k < size) (v : Byte) :
    Memory.wf size (Memory.write m k v) := by
  refine ⟨?_, ?_⟩
  · induction m with
    | nil =>
      simp only [Memory.write]
      split <;> simp
    | cons c rest ih =>
      obtain ⟨j, b⟩ := c
      have hlt := lt_of_wf_cons h
      have hrest := (wf_tail h).1
      simp only [Memory.write]
      split
      · split
        · exact h.1
        · refine List.pairwise_cons.mpr ⟨?_, h.1⟩
          intro d hd
          rcases List.mem_cons.mp hd with rfl | hd
          · assumption
          · have := hlt d hd
            simp only at this ⊢
            omega
      · split
        · split
          · exact hrest
          · refine List.pairwise_cons.mpr ⟨?_, hrest⟩
            intro d hd
            have := hlt d hd
            simp only at this ⊢
            omega
        · refine List.pairwise_cons.mpr ⟨?_, ih (wf_tail h)⟩
          intro d hd
          rcases mem_write hd with hd | ⟨rfl, -⟩
          · exact hlt d hd
          · simp only
            omega
  · intro c hc
    rcases mem_write hc with hc | ⟨rfl, hv⟩
    · exact h.2 c hc
    · exact ⟨hk, hv⟩

/-- A canonical buffer is its reads: two that read alike are one list. -/
theorem ext {size : Nat} {m n : Memory} (hm : Memory.wf size m) (hn : Memory.wf size n)
    (h : ∀ k, Memory.read m k = Memory.read n k) : m = n := by
  induction m generalizing n with
  | nil =>
    cases n with
    | nil => rfl
    | cons d rest =>
      obtain ⟨j, b⟩ := d
      have h1 := h j
      have h2 := (hn.2 (j, b) (by simp)).2
      simp [Memory.read] at h1
      exact absurd h1.symm h2
  | cons c rest ih =>
    obtain ⟨j, b⟩ := c
    have hb := (hm.2 (j, b) (by simp)).2
    have hj := lt_of_wf_cons hm
    cases n with
    | nil =>
      have h1 := h j
      simp [Memory.read] at h1
      exact absurd h1 hb
    | cons d rest' =>
      obtain ⟨j', b'⟩ := d
      have hb' := (hn.2 (j', b') (by simp)).2
      have hj' := lt_of_wf_cons hn
      have e : j = j' := by
        rcases Nat.lt_trichotomy j j' with hlt | heq | hgt
        · have h1 := h j
          have h2 : Memory.read ((j', b') :: rest') j = unlisted := by
            apply read_of_lt
            intro d hd
            rcases List.mem_cons.mp hd with rfl | hd
            · exact hlt
            · exact Nat.lt_trans hlt (hj' d hd)
          rw [h2] at h1
          simp [Memory.read] at h1
          exact absurd h1 hb
        · exact heq
        · have h1 := h j'
          have h2 : Memory.read ((j, b) :: rest) j' = unlisted := by
            apply read_of_lt
            intro d hd
            rcases List.mem_cons.mp hd with rfl | hd
            · exact hgt
            · exact Nat.lt_trans hgt (hj d hd)
          rw [h2] at h1
          simp [Memory.read] at h1
          exact absurd h1.symm hb'
      subst e
      have hbb : b = b' := by simpa [Memory.read] using h j
      subst hbb
      congr 1
      refine ih (wf_tail hm) (wf_tail hn) fun k => ?_
      by_cases hk : j = k
      · subst hk
        rw [read_of_lt hj, read_of_lt hj']
      · simpa [Memory.read, hk] using h k

/-- The later of two writes to one index stands. -/
theorem write_write_same {size : Nat} {m : Memory} (h : Memory.wf size m) {k : Nat} (hk : k < size) (v w : Byte) :
    Memory.write (Memory.write m k v) k w = Memory.write m k w := by
  have h1 := write_wf h hk v
  refine ext (write_wf h1 hk w) (write_wf h hk w) fun j => ?_
  by_cases hj : j = k
  · subst hj
    rw [read_write_same h1, read_write_same h]
  · rw [read_write_other _ _ hj, read_write_other _ _ hj, read_write_other _ _ hj]

/-- Writes to two indices commute. -/
theorem write_write_comm {size : Nat} {m : Memory} (h : Memory.wf size m) {k l : Nat} (hk : k < size) (hl : l < size)
    (hkl : k ≠ l) (v w : Byte) :
    Memory.write (Memory.write m k v) l w = Memory.write (Memory.write m l w) k v := by
  have h1 := write_wf h hk v
  have h2 := write_wf h hl w
  refine ext (write_wf h1 hl w) (write_wf h2 hk v) fun j => ?_
  by_cases hj : j = k
  · subst hj
    rw [read_write_other _ _ hkl, read_write_same h, read_write_same h2]
  · by_cases hj' : j = l
    · subst hj'
      rw [read_write_same h1, read_write_other _ _ hj, read_write_same h]
    · rw [read_write_other _ _ hj', read_write_other _ _ hj, read_write_other _ _ hj, read_write_other _ _ hj']

end Memory

end Sys2Proof.Machine
end

