-- ==== Sys2Proof/Laws/PerInstr.lean ====
section
/-! SUPPORT. A fact of every operation as syntax, one lemma per constructor: the format in which its request travels
(spec/30_encoding.md R56: eight rows of format BW, one of BR, twenty-six of IP). -/

namespace Sys2Proof.Laws.EncodedFormat

/-- The format of opcode_table.json's row. -/
def formatOf : Instr → Format
  | .wrCtrl _ | .wrMask _ | .wrStatus _ | .wrOamaddr _ | .wrOamdata _ | .wrScroll _ | .wrAddr _ | .wrData _ => .bw
  | .rd _ => .br
  | _ => .ip

/-- An operation's request has the format of its row, at every mirror number. -/
def Statement (i : Instr) : Prop := ∀ x, (encodeAt x i).format = formatOf i

theorem wrCtrl (v : Byte) : Statement (.wrCtrl v) := fun _ => rfl
theorem wrMask (v : Byte) : Statement (.wrMask v) := fun _ => rfl
theorem wrStatus (v : Byte) : Statement (.wrStatus v) := fun _ => rfl
theorem wrOamaddr (v : Byte) : Statement (.wrOamaddr v) := fun _ => rfl
theorem wrOamdata (v : Byte) : Statement (.wrOamdata v) := fun _ => rfl
theorem wrScroll (v : Byte) : Statement (.wrScroll v) := fun _ => rfl
theorem wrAddr (v : Byte) : Statement (.wrAddr v) := fun _ => rfl
theorem wrData (v : Byte) : Statement (.wrData v) := fun _ => rfl
theorem rd (a : Word) : Statement (.rd a) := fun _ => rfl
theorem baseNametableAddr : Statement (.baseNametableAddr) := fun _ => rfl
theorem vramAddrIncrement : Statement (.vramAddrIncrement) := fun _ => rfl
theorem spritePatternTableAddr : Statement (.spritePatternTableAddr) := fun _ => rfl
theorem backgroundPatternTableAddr : Statement (.backgroundPatternTableAddr) := fun _ => rfl
theorem spriteSize : Statement (.spriteSize) := fun _ => rfl
theorem vblankNmiEnabled : Statement (.vblankNmiEnabled) := fun _ => rfl
theorem grayscale : Statement (.grayscale) := fun _ => rfl
theorem showBackgroundLeft : Statement (.showBackgroundLeft) := fun _ => rfl
theorem showSpritesLeft : Statement (.showSpritesLeft) := fun _ => rfl
theorem showBackground : Statement (.showBackground) := fun _ => rfl
theorem showSprites : Statement (.showSprites) := fun _ => rfl
theorem intensifyRed : Statement (.intensifyRed) := fun _ => rfl
theorem intensifyGreen : Statement (.intensifyGreen) := fun _ => rfl
theorem intensifyBlue : Statement (.intensifyBlue) := fun _ => rfl
theorem setCtrl (v : Byte) : Statement (.setCtrl v) := fun _ => rfl
theorem setMask (v : Byte) : Statement (.setMask v) := fun _ => rfl
theorem setOamAddr (v : Byte) : Statement (.setOamAddr v) := fun _ => rfl
theorem setSpriteOverflow (on : Bool) : Statement (.setSpriteOverflow on) := fun _ => rfl
theorem setSpriteZeroHit (on : Bool) : Statement (.setSpriteZeroHit on) := fun _ => rfl
theorem setInVblank (on : Bool) : Statement (.setInVblank on) := fun _ => rfl
theorem scrollWrite (v : Byte) : Statement (.scrollWrite v) := fun _ => rfl
theorem addrWrite (v : Byte) : Statement (.addrWrite v) := fun _ => rfl
theorem load (a : Word) : Statement (.load a) := fun _ => rfl
theorem store (a : Word) (v : Byte) : Statement (.store a v) := fun _ => rfl
theorem load16 (a : Word) : Statement (.load16 a) := fun _ => rfl
theorem store16 (a : Word) (v : Word) : Statement (.store16 a v) := fun _ => rfl

end Sys2Proof.Laws.EncodedFormat
end

