-- ==== Sys2Proof/Laws/Step.lean ====
section
/-! SUPPORT. A step takes the oldest issued operation; a run is its steps. -/

namespace Sys2Proof.Machine

@[simp] theorem withPending_self (s : State) : s.withPending s.pending = s := rfl

theorem takeRequest_nil {s : State} (h : s.pending = []) : s.takeRequest = none := by
  simp [State.takeRequest, h]

theorem takeRequest_cons {s : State} {r : Request} {rest : List Request} (h : s.pending = r :: rest) :
    s.takeRequest = some (r, s.withPending rest) := by
  simp [State.takeRequest, h]

theorem step_nil {s : State} (h : s.pending = []) : step s = .next s := by
  simp [step, takeRequest_nil h]

theorem step_cons {s : State} {r : Request} {rest : List Request} (h : s.pending = r :: rest) :
    step s = dispatch r (s.withPending rest) := by
  simp [step, takeRequest_cons h]

theorem dispatch_ok {r : Request} {i : Instr} (h : decode r = .ok i) (s : State) : dispatch r s = exec i s := by
  simp [dispatch, h]

theorem dispatch_error {r : Request} {e : DecodeError} (h : decode r = .error e) (s : State) :
    dispatch r s = refuseRequest s e := by
  simp [dispatch, h]

/-- A rejected request answers no next state. -/
theorem refuseRequest_ne_next (s : State) (e : DecodeError) (t : State) : refuseRequest s e ≠ .next t := by
  cases e
  simp only [refuseRequest, refuse, whenLive]
  split <;> simp

/-- A step that answers a next state idles, or performs the oldest issued operation. -/
theorem step_next {s t : State} (h : step s = .next t) :
    (s.pending = [] ∧ t = s) ∨
    ∃ r rest i, s.pending = r :: rest ∧ decode r = .ok i ∧ exec i (s.withPending rest) = .next t := by
  rcases hp : s.pending with _ | ⟨r, rest⟩
  · rw [step_nil hp] at h
    cases h
    exact .inl ⟨rfl, rfl⟩
  · rw [step_cons hp] at h
    rcases hd : decode r with e | i
    · rw [dispatch_error hd] at h
      exact absurd h (refuseRequest_ne_next _ _ _)
    · rw [dispatch_ok hd] at h
      exact .inr ⟨r, rest, i, rfl, hd, h⟩

@[simp] theorem runFor_zero (s : State) : runFor 0 s = .next s := rfl

theorem runFor_succ_next {k : Nat} {s t : State} (h : step s = .next t) : runFor (k + 1) s = runFor k t := by
  have h' : Sys2Proof.core.step s = .next t := h
  simp only [runFor, Host.Core.run]
  rw [h']

/-- A run that answers a next state begins with a step that does. -/
theorem runFor_succ {k : Nat} {s u : State} (h : runFor (k + 1) s = .next u) :
    ∃ t, step s = .next t ∧ runFor k t = .next u := by
  rcases hs : step s with t | f | r
  · exact ⟨t, rfl, by rwa [runFor_succ_next hs] at h⟩
  · have h' : Sys2Proof.core.step s = .fault f := hs
    simp only [runFor, Host.Core.run] at h
    rw [h'] at h
    cases h
  · have h' : Sys2Proof.core.step s = .refused r := hs
    simp only [runFor, Host.Core.run] at h
    rw [h'] at h
    cases h

/-- An induction over runs: what holds at the start and is kept by every step holds at the end. -/
theorem runFor_induction {P : State → Prop} (hstep : ∀ s t, P s → step s = .next t → P t) {k : Nat} {s t : State}
    (hs : P s) (h : runFor k s = .next t) : P t := by
  induction k generalizing s with
  | zero =>
    cases h
    exact hs
  | succ k ih =>
    obtain ⟨u, hu, hr⟩ := runFor_succ h
    exact ih (hstep s u hs hu) hr

end Sys2Proof.Machine
end

