-- ==== Sys2Proof/Laws/Vram.lean ====
section
/-! SUPPORT. The laws of the AddressSpace (spec/42_addressspace.md): where an address resolves, what a load and a store come
to, and that a store keeps the canonical form and touches one cell. -/

namespace Sys2Proof.Machine

/-! Where an address resolves (R32). -/

theorem resolve_pattern {a : Word} (h : a.toNat ≤ 0x1FFF) : resolve a = some (.pattern (a.setWidth 13)) := by
  have h1 : a ≤ 0x1FFF#16 := by simpa [BitVec.le_def] using h
  simp only [resolve, h1, if_true]

theorem resolve_nametable {a : Word} (h : 0x2000 ≤ a.toNat) (h' : a.toNat ≤ 0x3EFF) :
    resolve a = some (.nametable (a.setWidth 12)) := by
  have h1 : ¬ a ≤ 0x1FFF#16 := by simp [BitVec.le_def]; omega
  have h2 : a ≤ 0x3EFF#16 := by simpa [BitVec.le_def] using h'
  simp only [resolve, h1, h2, if_true, if_false]

theorem resolve_palette {a : Word} (h : 0x3F00 ≤ a.toNat) (h' : a.toNat ≤ 0x3FFF) :
    resolve a = some (.palette (a.setWidth 5)) := by
  have h1 : ¬ a ≤ 0x1FFF#16 := by simp [BitVec.le_def]; omega
  have h2 : ¬ a ≤ 0x3EFF#16 := by simp [BitVec.le_def]; omega
  have h3 : a ≤ 0x3FFF#16 := by simpa [BitVec.le_def] using h'
  simp only [resolve, h1, h2, h3, if_true, if_false]

theorem resolve_invalid {a : Word} (h : 0x4000 ≤ a.toNat) : resolve a = none := by
  have h1 : ¬ a ≤ 0x1FFF#16 := by simp [BitVec.le_def]; omega
  have h2 : ¬ a ≤ 0x3EFF#16 := by simp [BitVec.le_def]; omega
  have h3 : ¬ a ≤ 0x3FFF#16 := by simp [BitVec.le_def]; omega
  simp only [resolve, h1, h2, h3, if_false]

/-- R32: the four ranges, one case each. -/
theorem resolve_cases (a : Word) :
    (a.toNat ≤ 0x1FFF ∧ resolve a = some (.pattern (a.setWidth 13))) ∨
    (0x2000 ≤ a.toNat ∧ a.toNat ≤ 0x3EFF ∧ resolve a = some (.nametable (a.setWidth 12))) ∨
    (0x3F00 ≤ a.toNat ∧ a.toNat ≤ 0x3FFF ∧ resolve a = some (.palette (a.setWidth 5))) ∨
    (0x4000 ≤ a.toNat ∧ resolve a = none) := by
  by_cases h1 : a.toNat ≤ 0x1FFF
  · exact .inl ⟨h1, resolve_pattern h1⟩
  by_cases h2 : a.toNat ≤ 0x3EFF
  · exact .inr (.inl ⟨by omega, h2, resolve_nametable (by omega) h2⟩)
  by_cases h3 : a.toNat ≤ 0x3FFF
  · exact .inr (.inr (.inl ⟨by omega, h3, resolve_palette (by omega) h3⟩))
  · exact .inr (.inr (.inr ⟨by omega, resolve_invalid (by omega)⟩))

/-- R36: exactly the addresses from `0x4000` up are invalid. -/
theorem resolve_eq_none_iff (a : Word) : resolve a = none ↔ 0x4000 ≤ a.toNat := by
  rcases resolve_cases a with ⟨h, e⟩ | ⟨h, h', e⟩ | ⟨h, h', e⟩ | ⟨h, e⟩ <;> simp [e] <;> omega

theorem resolve_isSome {a : Word} (h : a.toNat ≤ 0x3FFF) : ∃ c, resolve a = some c := by
  rcases hr : resolve a with _ | c
  · rw [resolve_eq_none_iff] at hr
    omega
  · exact ⟨c, rfl⟩

/-! The masks of R34 and R35 are the low bits. -/

theorem toNat_and_0FFF (a : Word) : (a &&& 0x0FFF#16).toNat = a.toNat % 4096 := by
  rw [BitVec.toNat_and]
  exact Nat.and_two_pow_sub_one_eq_mod a.toNat 12

theorem toNat_and_1F (a : Word) : (a &&& 0x1F#16).toNat = a.toNat % 32 := by
  rw [BitVec.toNat_and]
  exact Nat.and_two_pow_sub_one_eq_mod a.toNat 5

theorem setWidth12_toNat (a : Word) : (a.setWidth 12).toNat = (a &&& 0x0FFF#16).toNat := by
  rw [toNat_and_0FFF]
  simp

theorem setWidth5_toNat (a : Word) : (a.setWidth 5).toNat = (a &&& 0x1F#16).toNat := by
  rw [toNat_and_1F]
  simp

/-! Loads and stores. -/

theorem Vram.load_of_resolve {m : Vram} {a : Word} {c : CellRef} (h : resolve a = some c) :
    m.load a = .ok (m.readCell c) := by
  simp [Vram.load, h]

theorem Vram.load_invalid {m : Vram} {a : Word} (h : 0x4000 ≤ a.toNat) : m.load a = .error (.invalidAddress a) := by
  simp [Vram.load, resolve_invalid h]

theorem Vram.store_of_resolve {m : Vram} {a : Word} {c : CellRef} (h : resolve a = some c) (v : Byte) :
    m.store a v = .ok (m.writeCell c v) := by
  simp [Vram.store, h]

theorem Vram.store_invalid {m : Vram} {a : Word} (h : 0x4000 ≤ a.toNat) (v : Byte) :
    m.store a v = .error (.invalidAddress a) := by
  simp [Vram.store, resolve_invalid h]

/-- What a load can answer. -/
theorem Vram.load_cases (m : Vram) (a : Word) :
    (a.toNat ≤ 0x3FFF ∧ ∃ c, resolve a = some c ∧ m.load a = .ok (m.readCell c)) ∨
    (0x4000 ≤ a.toNat ∧ m.load a = .error (.invalidAddress a)) := by
  by_cases h : a.toNat ≤ 0x3FFF
  · obtain ⟨c, hc⟩ := resolve_isSome h
    exact .inl ⟨h, c, hc, load_of_resolve hc⟩
  · exact .inr ⟨by omega, load_invalid (by omega)⟩

/-- What a store can answer. -/
theorem Vram.store_cases (m : Vram) (a : Word) (v : Byte) :
    (a.toNat ≤ 0x3FFF ∧ ∃ c, resolve a = some c ∧ m.store a v = .ok (m.writeCell c v)) ∨
    (0x4000 ≤ a.toNat ∧ m.store a v = .error (.invalidAddress a)) := by
  by_cases h : a.toNat ≤ 0x3FFF
  · obtain ⟨c, hc⟩ := resolve_isSome h
    exact .inl ⟨h, c, hc, store_of_resolve hc v⟩
  · exact .inr ⟨by omega, store_invalid (by omega) v⟩

/-- What a two-byte load can answer (R102). -/
theorem Vram.load16_cases (m : Vram) (a : Word) :
    (a.toNat ≤ 0x3FFE ∧ ∃ lo hi, m.load a = .ok lo ∧ m.load (a + 1) = .ok hi ∧ m.load16 a = .ok (littleEndian lo hi)) ∨
    (a.toNat = 0x3FFF ∧ m.load16 a = .error (.invalidAddress 0x4000#16)) ∨
    (0x4000 ≤ a.toNat ∧ m.load16 a = .error (.invalidAddress a)) := by
  rcases load_cases m a with ⟨h, c, hc, e⟩ | ⟨h, e⟩
  · have h1 : (a + 1).toNat = a.toNat + 1 := by
      rw [BitVec.toNat_add]
      simp
      omega
    rcases load_cases m (a + 1) with ⟨h', c', hc', e'⟩ | ⟨h', e'⟩
    · refine .inl ⟨by omega, _, _, e, e', ?_⟩
      simp only [Vram.load16, e, e']
    · have ha : a = 0x3FFF#16 := by
        apply BitVec.eq_of_toNat_eq
        simp
        omega
      subst ha
      refine .inr (.inl ⟨rfl, ?_⟩)
      simp only [Vram.load16, e, e']
      rfl
  · refine .inr (.inr ⟨h, ?_⟩)
    simp [Vram.load16, e]

/-- A write of a cell keeps the canonical form. -/
theorem Vram.writeCell_wf {m : Vram} (h : m.wf) (c : CellRef) (v : Byte) : (m.writeCell c v).wf := by
  cases c with
  | pattern i => exact h
  | nametable i => exact ⟨Memory.write_wf h.1 i.isLt v, h.2⟩
  | palette i => exact ⟨h.1, Memory.write_wf h.2 i.isLt v⟩

/-- A store keeps the canonical form. -/
theorem Vram.store_wf {m n : Vram} (h : m.wf) {a : Word} {v : Byte} (e : m.store a v = .ok n) : n.wf := by
  rcases store_cases m a v with ⟨-, c, -, e'⟩ | ⟨-, e'⟩
  · rw [e'] at e
    cases e
    exact writeCell_wf h c v
  · rw [e'] at e
    cases e

/-- A write of one cell leaves every other cell alone, in any buffers. -/
theorem Vram.readCell_writeCell_other (m : Vram) {c d : CellRef} (v : Byte) (h : d ≠ c) :
    (m.writeCell c v).readCell d = m.readCell d := by
  cases c <;> cases d <;> simp only [Vram.writeCell, Vram.readCell]
  · rename_i i j
    exact Memory.read_write_other _ _ fun e => h (by rw [BitVec.toNat_inj.mp e])
  · rename_i i j
    exact Memory.read_write_other _ _ fun e => h (by rw [BitVec.toNat_inj.mp e])

/-- A cell that is not a pattern cell holds what was written. -/
theorem Vram.readCell_writeCell_same {m : Vram} (hm : m.wf) {c : CellRef} (v : Byte) (h : ∀ i, c ≠ .pattern i) :
    (m.writeCell c v).readCell c = v := by
  cases c with
  | pattern i => exact absurd rfl (h i)
  | nametable i => exact Memory.read_write_same hm.1 _ v
  | palette i => exact Memory.read_write_same hm.2 _ v

/-- The later of two writes of one cell stands. -/
theorem Vram.writeCell_writeCell_same {m : Vram} (hm : m.wf) (c : CellRef) (v w : Byte) :
    (m.writeCell c v).writeCell c w = m.writeCell c w := by
  cases c with
  | pattern i => rfl
  | nametable i => simp only [Vram.writeCell, Memory.write_write_same hm.1 i.isLt]
  | palette i => simp only [Vram.writeCell, Memory.write_write_same hm.2 i.isLt]

/-- Writes of two cells commute. -/
theorem Vram.writeCell_writeCell_comm {m : Vram} (hm : m.wf) {c d : CellRef} (h : c ≠ d) (v w : Byte) :
    (m.writeCell c v).writeCell d w = (m.writeCell d w).writeCell c v := by
  cases c <;> cases d <;> simp only [Vram.writeCell]
  · rename_i i j
    rw [Memory.write_write_comm hm.1 i.isLt j.isLt fun e => h (by rw [BitVec.toNat_inj.mp e])]
  · rename_i i j
    rw [Memory.write_write_comm hm.2 i.isLt j.isLt fun e => h (by rw [BitVec.toNat_inj.mp e])]

end Sys2Proof.Machine
end

