-- ==== Sys2Proof/Tests/Slice0.lean ====
section
/-! SUPPORT. Tests of the model on fixed values, and one witness for the hypotheses of every statement that has some. Expected
values are those of spec/95_test_vectors.md (named by its section) or are read off the rule named. -/

namespace Sys2Proof.Tests

open Sys2Proof.Machine

/-! ## Small states and ways to look at an outcome -/

/-- The power-on state with a control byte and a cursor. -/
def at' (ctrl : Byte) (addr : Word) : State :=
  { State.reset with regs := { State.reset.regs with ctrl := ctrl, addr := addr } }

/-- The power-on state with a mask byte. -/
def masked (m : Byte) : State := { State.reset with regs := { State.reset.regs with mask := m } }

/-- The power-on state with a status byte. -/
def flagged (b : Byte) : State := { State.reset with regs := { State.reset.regs with status := b } }

/-- The power-on state with a scroll latch. -/
def scrolled (x y : Byte) (d : ScrollDir) : State :=
  { State.reset with regs := { State.reset.regs with scroll := { x := x, y := y, next := d } } }

/-- 95_test_vectors.md 2.4: the buffers the region-boundary vectors start from. -/
def regions : State :=
  { State.reset with
    vram := { nt := [(0x000, 0xBB), (0xEFF, 0xCC), (0xFFF, 0xAA)], pal := [(0x00, 0xDD), (0x1F, 0xEE)] } }

/-- A block in the middle of a run, with no element at its power-on value. -/
def busy : State where
  regs := { ctrl := 0x93, mask := 0x1E, status := 0xE5, oamAddr := 0x10,
            scroll := { x := 0x55, y := 0x66, next := .yDir }, addr := 0x2108 }
  vram := regions.vram
  fault := none
  pending := [.busWrite 0x2005 0x0A, .internal (.load 0x3000)]
  reply := some .done

/-- A faulted block with an operation still issued to it. -/
def faulted : State :=
  { busy with fault := some (.invalidAddress 0x4010), reply := some (.failed (.invalidAddress 0x4010)) }

/-- A state in which the bus writes of a trace (30_encoding.md R61) are issued. -/
def issued (s : State) (ts : List (BitVec 24)) : State := { s with pending := ts.map requestOfTrace }

/-- The outcome is a next state that passes the check. -/
def ends (o : Host.Outcome State Fault Refusal) (p : State → Bool) : Bool :=
  match o with
  | .next t => p t
  | .fault _ | .refused _ => false

/-- The outcome is a next state without a fault that reports the value. -/
def answers (o : Host.Outcome State Fault Refusal) (v : Value) : Bool :=
  ends o fun t => t.reply == some (.value v) && t.fault == none

/-- The outcome is a next state in which the operation has faulted. -/
def faults (o : Host.Outcome State Fault Refusal) (f : Fault) : Bool :=
  ends o fun t => t.fault == some f && t.reply == some (.failed f)

/-- The outcome is the refusal. -/
def refuses (o : Host.Outcome State Fault Refusal) (r : Refusal) : Bool :=
  match o with
  | .refused q => q == r
  | .next _ | .fault _ => false

/-! ## Well-formedness (30_encoding.md R50, R52) -/

theorem test_wellFormed_refuses_below_window : (Request.busWrite 0x1FFF 0x00).wellFormed = false := by decide

theorem test_wellFormed_refuses_above_window : (Request.busWrite 0x4000 0x00).wellFormed = false := by decide

theorem test_wellFormed_accepts_window_ends :
    (Request.busWrite 0x2000 0x00).wellFormed = true ∧ (Request.busWrite 0x3FFF 0x00).wellFormed = true := by decide

theorem test_wellFormed_accepts_reads_and_internal :
    (Request.busRead 0x0000).wellFormed = true ∧ (Request.internal (.store 0x4000 0xFF)).wellFormed = true := by decide

/-! ## Decoding: the words of R50, `001 xxxxxxxxxx rrr` and the byte, written out -/

theorem test_decode_wrCtrl : decode (requestOfTrace 0b001_0000000000_000_10000100#24) = .ok (.wrCtrl 0x84) := by decide

theorem test_decode_wrMask : decode (requestOfTrace 0b001_0101010110_001_00011110#24) = .ok (.wrMask 0x1E) := by decide

theorem test_decode_wrStatus : decode (requestOfTrace 0b001_0000000001_010_11111111#24) = .ok (.wrStatus 0xFF) := by decide

theorem test_decode_wrOamaddr : decode (requestOfTrace 0b001_0000000000_011_00010000#24) = .ok (.wrOamaddr 0x10) := by
  decide

theorem test_decode_wrOamdata : decode (requestOfTrace 0b001_0000000001_100_10101010#24) = .ok (.wrOamdata 0xAA) := by
  decide

theorem test_decode_wrScroll : decode (requestOfTrace 0b001_1111111111_101_00001010#24) = .ok (.wrScroll 0x0A) := by decide

theorem test_decode_wrAddr : decode (requestOfTrace 0b001_1111111111_110_01000001#24) = .ok (.wrAddr 0x41) := by decide

theorem test_decode_wrData : decode (requestOfTrace 0b001_0000000001_111_00000010#24) = .ok (.wrData 0x02) := by decide

/-- R52: an address outside the window is not decoded by its low bits. -/
theorem test_decode_outside_window :
    decode (.busWrite 0b000_1111111111_111#16 0x00) = .error (.outOfWindow 0x1FFF) ∧
      decode (.busWrite 0b010_0000000010_100#16 0x02) = .error (.outOfWindow 0x4014) ∧
      decode (.busWrite 0b111_0000000000_000#16 0x02) = .error (.outOfWindow 0xE000) := by decide

theorem test_decode_rd : decode (.busRead 0x2002) = .ok (.rd 0x2002) ∧ decode (.busRead 0x8000) = .ok (.rd 0x8000) := by
  decide

/-- R54, R56: the operations of the internal port have no word, and are selected by name. -/
theorem test_decode_ctrl_accessors :
    decode (.internal .baseNametableAddr) = .ok .baseNametableAddr ∧
      decode (.internal .vramAddrIncrement) = .ok .vramAddrIncrement ∧
      decode (.internal .spritePatternTableAddr) = .ok .spritePatternTableAddr ∧
      decode (.internal .backgroundPatternTableAddr) = .ok .backgroundPatternTableAddr ∧
      decode (.internal .spriteSize) = .ok .spriteSize ∧
      decode (.internal .vblankNmiEnabled) = .ok .vblankNmiEnabled := by decide

theorem test_decode_mask_accessors :
    decode (.internal .grayscale) = .ok .grayscale ∧
      decode (.internal .showBackgroundLeft) = .ok .showBackgroundLeft ∧
      decode (.internal .showSpritesLeft) = .ok .showSpritesLeft ∧
      decode (.internal .showBackground) = .ok .showBackground ∧
      decode (.internal .showSprites) = .ok .showSprites ∧
      decode (.internal .intensifyRed) = .ok .intensifyRed ∧
      decode (.internal .intensifyGreen) = .ok .intensifyGreen ∧
      decode (.internal .intensifyBlue) = .ok .intensifyBlue := by decide

theorem test_decode_mutators :
    decode (.internal (.setCtrl 0x40)) = .ok (.setCtrl 0x40) ∧
      decode (.internal (.setMask 0x1E)) = .ok (.setMask 0x1E) ∧
      decode (.internal (.setOamAddr 0x10)) = .ok (.setOamAddr 0x10) ∧
      decode (.internal (.setSpriteOverflow true)) = .ok (.setSpriteOverflow true) ∧
      decode (.internal (.setSpriteZeroHit false)) = .ok (.setSpriteZeroHit false) ∧
      decode (.internal (.setInVblank true)) = .ok (.setInVblank true) ∧
      decode (.internal (.scrollWrite 0x55)) = .ok (.scrollWrite 0x55) ∧
      decode (.internal (.addrWrite 0x12)) = .ok (.addrWrite 0x12) := by decide

theorem test_decode_vram_operations :
    decode (.internal (.load 0x3000)) = .ok (.load 0x3000) ∧
      decode (.internal (.store 0x3F00 0x07)) = .ok (.store 0x3F00 0x07) ∧
      decode (.internal (.load16 0x2010)) = .ok (.load16 0x2010) ∧
      decode (.internal (.store16 0x2000 0xBEEF)) = .ok (.store16 0x2000 0xBEEF) := by decide

/-- R61: the shorthand is the lowest alias, and the encoding is the pair `aaaa:vv`. -/
theorem test_encode_lowest_alias :
    encode (.wrCtrl 0x84) = requestOfTrace 0x200084#24 ∧ encode (.wrData 0x0F) = requestOfTrace 0x20070F#24 := by decide

/-- The highest alias of offset `k` is `0x3FF8 + k` (R51). -/
theorem test_encode_highest_alias : encodeAt 0x3FF (.wrScroll 0x0A) = requestOfTrace 0x3FFD0A#24 := by decide

/-! ## Table words (assumption 17) -/

theorem test_tableWord_bus_writes :
    decodeTableWord 16 0x2000 = some (.wrCtrl 0x00) ∧ decodeTableWord 16 0x2007 = some (.wrData 0x00) ∧
      decodeTableWord 16 0x3FF8 = some (.wrCtrl 0x00) ∧ decodeTableWord 24 0x842000 = some (.wrCtrl 0x84) := by decide

theorem test_tableWord_reads_and_rejects :
    decodeTableWord 16 0x0000 = some (.rd 0x0000) ∧ decodeTableWord 24 0x004000 = none ∧
      decodeTableWord 32 0x01002000 = none := by decide

theorem test_fetchWord_runs_first :
    ends (step (State.reset.withFetchWord 24 0x842000)) (fun t => t.regs.ctrl == 0x84 && t.pending == []) = true := by decide

/-! ## One step of every bus operation (95_test_vectors.md 2.5, S1) -/

theorem test_step_wrCtrl :
    ends (step (issued State.reset [0x200084#24])) (fun t => t.regs.ctrl == 0x84 && t.reply == some .done) = true := by
  decide

theorem test_step_wrCtrl_highest_alias :
    ends (step (issued State.reset [0x3FF884#24])) (fun t => t.regs.ctrl == 0x84 && t.regs.mask == 0) = true := by decide

theorem test_step_wrMask :
    ends (step (issued State.reset [0x2AB11E#24])) (fun t => t.regs.mask == 0x1E && t.regs.ctrl == 0) = true := by decide

theorem test_step_wrStatus_ignored :
    ends (step (issued (flagged 0xE0) [0x200200#24])) (fun t => t.regs.status == 0xE0 && t.reply == some .done) = true := by
  decide

theorem test_step_wrOamaddr :
    ends (step (issued State.reset [0x200310#24])) (fun t => t.regs.oamAddr == 0x10 && t.regs.addr == 0) = true := by decide

theorem test_step_wrOamdata_faults :
    faults (step (issued busy [0x2004AA#24])) (.unimplemented .wrOamdata) = true ∧
      ends (step (issued busy [0x2004AA#24])) (fun t => t.regs == busy.regs && t.vram == busy.vram) = true := by decide

theorem test_step_wrScroll :
    ends (step (issued State.reset [0x3FFD0A#24])) (fun t => t.regs.scroll == ⟨0x0A, 0x00, .yDir⟩) = true := by decide

theorem test_step_wrAddr :
    ends (step (issued (at' 0x00 0x003F) [0x200600#24])) (fun t => t.regs.addr == 0x3F00) = true := by decide

theorem test_step_wrData_stores_and_advances :
    ends (step (issued (at' 0x04 0x3EFF) [0x200766#24]))
      (fun t => t.regs.addr == 0x3F1F && t.vram.nt == [(0xEFF, 0x66)] && t.vram.pal == []) = true := by decide

theorem test_step_wrData_faults_off_the_top :
    faults (step (issued (at' 0x04 0x401F) [0x200702#24])) (.invalidAddress 0x401F) = true ∧
      ends (step (issued (at' 0x04 0x401F) [0x200702#24])) (fun t => t.regs.addr == 0x401F && t.vram == ⟨[], []⟩) = true := by
  decide

theorem test_step_rd_refused :
    refuses (step { State.reset with pending := [.busRead 0x2002] }) .noReadPath = true ∧
      refuses (step { State.reset with pending := [.busRead 0x4016] }) .noReadPath = true := by decide

theorem test_step_outOfWindow_refused :
    refuses (step (issued State.reset [0x1FFF00#24])) .outOfWindow = true ∧
      refuses (step (issued State.reset [0x401402#24])) .outOfWindow = true := by decide

/-- R131: on a faulted block the fault check is first, on either port. -/
theorem test_step_faulted_refused :
    refuses (step (issued faulted [0x200000#24])) .faulted = true ∧
      refuses (step (issued faulted [0x400000#24])) .faulted = true ∧
      refuses (step { faulted with pending := [.busRead 0x2002] }) .faulted = true ∧
      refuses (step { faulted with pending := [.internal .spriteSize] }) .faulted = true := by decide

/-! ## The accessors (95_test_vectors.md 2.1, 2.2) -/

theorem test_baseNametableAddr :
    answers (exec .baseNametableAddr (at' 0xFE 0)) (.word 0x2800) = true ∧
      answers (exec .baseNametableAddr (at' 0x81 0)) (.word 0x2400) = true := by decide

theorem test_vramAddrIncrement :
    answers (exec .vramAddrIncrement (at' 0x0C 0)) (.word 32) = true ∧
      answers (exec .vramAddrIncrement (at' 0xFB 0)) (.word 0) = true := by decide

theorem test_patternTableAddrs :
    answers (exec .spritePatternTableAddr (at' 0x08 0)) (.word 0x1000) = true ∧
      answers (exec .spritePatternTableAddr (at' 0x93 0)) (.word 0x0000) = true ∧
      answers (exec .backgroundPatternTableAddr (at' 0x93 0)) (.word 0x1000) = true ∧
      answers (exec .backgroundPatternTableAddr (at' 0x08 0)) (.word 0x0000) = true := by decide

theorem test_spriteSize :
    answers (exec .spriteSize (at' 0x20 0)) (.size .size8x16) = true ∧
      answers (exec .spriteSize (at' 0x93 0)) (.size .size8x8) = true := by decide

theorem test_vblankNmiEnabled :
    answers (exec .vblankNmiEnabled (at' 0x93 0)) (.flag true) = true ∧
      answers (exec .vblankNmiEnabled (at' 0x40 0)) (.flag false) = true := by decide

/-- The row `mask = 0xAA`: F T F T F T F T from bit 0 up. -/
theorem test_mask_accessors_AA :
    answers (exec .grayscale (masked 0xAA)) (.flag false) = true ∧
      answers (exec .showBackgroundLeft (masked 0xAA)) (.flag true) = true ∧
      answers (exec .showSpritesLeft (masked 0xAA)) (.flag false) = true ∧
      answers (exec .showBackground (masked 0xAA)) (.flag true) = true ∧
      answers (exec .showSprites (masked 0xAA)) (.flag false) = true ∧
      answers (exec .intensifyRed (masked 0xAA)) (.flag true) = true ∧
      answers (exec .intensifyGreen (masked 0xAA)) (.flag false) = true ∧
      answers (exec .intensifyBlue (masked 0xAA)) (.flag true) = true := by decide

/-- The row `mask = 0x1E`: F T T T T F F F from bit 0 up. -/
theorem test_mask_accessors_1E :
    answers (exec .grayscale (masked 0x1E)) (.flag false) = true ∧
      answers (exec .showBackgroundLeft (masked 0x1E)) (.flag true) = true ∧
      answers (exec .showSpritesLeft (masked 0x1E)) (.flag true) = true ∧
      answers (exec .showBackground (masked 0x1E)) (.flag true) = true ∧
      answers (exec .showSprites (masked 0x1E)) (.flag true) = true ∧
      answers (exec .intensifyRed (masked 0x1E)) (.flag false) = true ∧
      answers (exec .intensifyGreen (masked 0x1E)) (.flag false) = true ∧
      answers (exec .intensifyBlue (masked 0x1E)) (.flag false) = true := by decide

/-! ## The mutators (95_test_vectors.md 2.3) -/

theorem test_setCtrl_keeps_bit6 :
    ends (exec (.setCtrl 0x40) State.reset) (fun t => t.regs.ctrl == 0x40 && t.regs.mask == 0) = true := by decide

theorem test_setMask :
    ends (exec (.setMask 0x55) busy) (fun t => t.regs.mask == 0x55 && t.regs.ctrl == 0x93) = true := by decide

theorem test_setOamAddr :
    ends (exec (.setOamAddr 0xFF) busy) (fun t => t.regs.oamAddr == 0xFF && t.regs.addr == 0x2108) = true := by decide

theorem test_setSpriteOverflow :
    ends (exec (.setSpriteOverflow true) (flagged 0xC0)) (fun t => t.regs.status == 0xE0) = true ∧
      ends (exec (.setSpriteOverflow false) (flagged 0x20)) (fun t => t.regs.status == 0x00) = true := by decide

theorem test_setSpriteZeroHit :
    ends (exec (.setSpriteZeroHit true) (flagged 0x80)) (fun t => t.regs.status == 0xC0) = true ∧
      ends (exec (.setSpriteZeroHit false) (flagged 0xFF)) (fun t => t.regs.status == 0xBF) = true := by decide

theorem test_setInVblank :
    ends (exec (.setInVblank true) (flagged 0x1F)) (fun t => t.regs.status == 0x9F) = true ∧
      ends (exec (.setInVblank false) (flagged 0xE0)) (fun t => t.regs.status == 0x60) = true := by decide

theorem test_scrollWrite_fills_x_then_y :
    ends (exec (.scrollWrite 0x55) (scrolled 0 0 .xDir)) (fun t => t.regs.scroll == ⟨0x55, 0x00, .yDir⟩) = true ∧
      ends (exec (.scrollWrite 0x55) (scrolled 0x55 0 .yDir)) (fun t => t.regs.scroll == ⟨0x55, 0x55, .xDir⟩) = true := by
  decide

theorem test_addrWrite_shifts_every_time :
    ends (exec (.addrWrite 0x12) (at' 0 0xABCD)) (fun t => t.regs.addr == 0xCD12) = true ∧
      ends (exec (.addrWrite 0x56) (at' 0 0x1234)) (fun t => t.regs.addr == 0x3456) = true := by decide

/-! ## The VRAM operations (95_test_vectors.md 2.4) -/

theorem test_load_region_boundaries :
    answers (exec (.load 0x2FFF) regions) (.byte 0xAA) = true ∧
      answers (exec (.load 0x3000) regions) (.byte 0xBB) = true ∧
      answers (exec (.load 0x3EFF) regions) (.byte 0xCC) = true ∧
      answers (exec (.load 0x3F20) regions) (.byte 0xDD) = true ∧
      answers (exec (.load 0x3FFF) regions) (.byte 0xEE) = true ∧
      faults (exec (.load 0x4000) regions) (.invalidAddress 0x4000) = true := by decide

theorem test_load_pattern_is_the_cartridge :
    exec (.load 0x1FFF) regions = .next { regions with reply := some (.value (.byte (Config.chr 0x1FFF))) } := rfl

theorem test_store_full_byte_and_mirror :
    ends (exec (.store 0x3FFF 0xFF) regions) (fun t => t.vram.pal == [(0x00, 0xDD), (0x1F, 0xFF)]) = true ∧
      ends (exec (.store 0x3EFF 0x22) regions) (fun t => t.vram.nt == [(0x000, 0xBB), (0xEFF, 0x22), (0xFFF, 0xAA)]) = true ∧
      faults (exec (.store 0x4000 0x00) regions) (.invalidAddress 0x4000) = true := by decide

/-- A pattern store is dropped, and a stored `0x00` leaves no entry. -/
theorem test_store_dropped_and_canonical :
    ends (exec (.store 0x1234 0x99) regions) (fun t => t.vram == regions.vram && t.reply == some .done) = true ∧
      ends (exec (.store 0x3000 0x00) regions) (fun t => t.vram.nt == [(0xEFF, 0xCC), (0xFFF, 0xAA)]) = true := by decide

theorem test_load16_across_regions :
    answers (exec (.load16 0x2FFF) regions) (.word 0xBBAA) = true ∧
      answers (exec (.load16 0x3EFF) regions) (.word 0xDDCC) = true ∧
      answers (exec (.load16 0x3F1F) regions) (.word 0xDDEE) = true ∧
      answers (exec (.load16 0x3FFE) regions) (.word 0xEE00) = true := by decide

theorem test_load16_faults :
    faults (exec (.load16 0x3FFF) regions) (.invalidAddress 0x4000) = true ∧
      faults (exec (.load16 0xFFFF) regions) (.invalidAddress 0xFFFF) = true := by decide

theorem test_store16_faults :
    faults (exec (.store16 0x2000 0xBEEF) regions) (.unimplemented .store16) = true ∧
      faults (exec (.store16 0x4000 0xBEEF) regions) (.unimplemented .store16) = true ∧
      ends (exec (.store16 0x2000 0xBEEF) regions) (fun t => t.vram == regions.vram) = true := by decide

/-! ## Witnesses: concrete values that meet the hypotheses of each statement, one for each clause, at the ends of its range -/

theorem witness_PowerOnState :
    0x2000#16 ≤ 0x2000#16 ∧ 0x3FFF#16 ≤ 0x3FFF#16 ∧ 0x1FFF#16 ≤ 0x1FFF#16 := by decide

theorem witness_PowerOnDecodedOutputs : Instr.grayscale.readsMask = true ∧ Instr.intensifyBlue.readsMask = true := by decide

theorem witness_StepPerformsOldestOperation :
    (busy.pending = .busWrite 0x2005 0x0A :: [.internal (.load 0x3000)] ∧
      decode (.busWrite 0x2005 0x0A) = .ok (.wrScroll 0x0A)) ∧
      regions.pending = [] := by decide

theorem witness_FetchWordRunsDecodedOperation :
    decodeTableWord 24 0x842000 = some (.wrCtrl 0x84) ∧ decodeTableWord 16 0x4000 = some (.rd 0x4000) := by decide

theorem witness_BusWriteDispatch_refused :
    ((issued faulted [0x200084#24]).pending = [.busWrite 0x2000 0x84] ∧ (issued faulted [0x200084#24]).fault ≠ none) ∧
      ((issued busy [0x1FFF00#24]).pending = [.busWrite 0x1FFF 0x00] ∧ busy.fault = none ∧ 0x1FFF#16 < 0x2000#16) ∧
      (issued busy [0x400000#24]).pending = [.busWrite 0x4000 0x00] ∧ 0x3FFF#16 < 0x4000#16 := by decide

theorem witness_BusWriteDispatch_selects :
    busy.fault = none ∧ (issued busy [0x200084#24]).pending = [.busWrite 0x2000 0x84] ∧
      0x2000#16 ≤ 0x2000#16 ∧ 0x3FFF#16 ≤ 0x3FFF#16 ∧ 0x2000#16 &&& 7#16 = 0#16 ∧ 0x2AB1#16 &&& 7#16 = 1#16 ∧
      0x200A#16 &&& 7#16 = 2#16 ∧ 0x2003#16 &&& 7#16 = 3#16 ∧ 0x200C#16 &&& 7#16 = 4#16 ∧ 0x3FFD#16 &&& 7#16 = 5#16 ∧
      0x3FFE#16 &&& 7#16 = 6#16 ∧ 0x3FFF#16 &&& 7#16 = 7#16 := by decide

theorem witness_BusWriteOpcodeMap :
    0x3FF8#16 &&& 0xE007#16 = 0x2000#16 ∧ 0x2AB1#16 &&& 0xE007#16 = 0x2001#16 ∧ 0x200A#16 &&& 0xE007#16 = 0x2002#16 ∧
      0x3FFB#16 &&& 0xE007#16 = 0x2003#16 ∧ 0x200C#16 &&& 0xE007#16 = 0x2004#16 ∧ 0x3FFD#16 &&& 0xE007#16 = 0x2005#16 ∧
      0x3FFE#16 &&& 0xE007#16 = 0x2006#16 ∧ 0x3FFF#16 &&& 0xE007#16 = 0x2007#16 ∧ 0x1FFF#16 &&& 0xE000#16 ≠ 0x2000#16 ∧
      0x4000#16 &&& 0xE000#16 ≠ 0x2000#16 := by decide

theorem witness_MirroredWritesHaveOneEffect :
    (0x2000#16 ≤ 0x2007#16 ∧ 0x2007#16 ≤ 0x3FFF#16 ∧ 0x2000#16 ≤ 0x3FFF#16 ∧ 0x3FFF#16 ≤ 0x3FFF#16 ∧
      0x2007#16 &&& 7#16 = 0x3FFF#16 &&& 7#16) ∧ 0#16 ≤ 7#16 ∧ 7#16 ≤ 7#16 := by decide

theorem witness_DecodedRequestIsAnEncoding :
    decode (.busWrite 0x3FFF 0x03) = .ok (.wrData 0x03) ∧ decode (.busRead 0xFFFF) = .ok (.rd 0xFFFF) ∧
      decode (.internal .spriteSize) = .ok .spriteSize := by decide

theorem witness_LaterOperationsDoNotInfluence :
    (busy.pending ≠ [] ∧ ∃ t, step busy = .next t) ∧ faulted.pending ≠ [] ∧ ∃ r, step faulted = .refused r :=
  ⟨⟨by decide, _, rfl⟩, by decide, _, rfl⟩

/-- For every statement whose hypothesis is a block that has not faulted, and no more: a state with no element at its
power-on value. The boundary values of what those statements test are shown by `test_` above. -/
theorem witness_live : busy.fault = none ∧ State.reset.fault = none := by decide

theorem witness_VramAddrIncrementResult :
    (at' 0x04 0).fault = none ∧ (at' 0x04 0).regs.ctrl.toNat / 4 % 2 = 1 ∧ (at' 0xFB 0).fault = none ∧
      (at' 0xFB 0).regs.ctrl.toNat / 4 % 2 ≠ 1 := by decide

theorem witness_ControlBit6HasNoEffect :
    Instr.baseNametableAddr.writesCtrl = false ∧ (∃ t, exec .baseNametableAddr busy = .next t) ∧
      (Instr.rd 0x2002).writesCtrl = false ∧ ∃ r, exec (.rd 0x2002) busy = .refused r :=
  ⟨by decide, ⟨_, rfl⟩, by decide, _, rfl⟩

theorem witness_AccessorsArePure :
    Instr.baseNametableAddr.readsCtrl = true ∧ Instr.vblankNmiEnabled.readsCtrl = true ∧ Instr.grayscale.readsMask = true ∧
      Instr.intensifyBlue.readsMask = true ∧ busy.fault = none ∧ (∃ t, exec (.wrCtrl 0x84) busy = .next t) ∧
      ∃ t, exec (.wrMask 0x55) busy = .next t :=
  ⟨by decide, by decide, by decide, by decide, by decide, ⟨_, rfl⟩, _, rfl⟩

theorem witness_StatusMutatorsChangeOneBit : busy.fault = none ∧ 0 < 8 ∧ 7 < 8 := by decide

theorem witness_StatusLowBitsHeldByEveryStep :
    (∃ t, step { busy with pending := [.internal (.setInVblank false)] } = .next t) ∧ (∃ t, step busy = .next t) ∧
      ∃ t, step regions = .next t :=
  ⟨⟨_, rfl⟩, ⟨_, rfl⟩, _, rfl⟩

theorem witness_ScrollWriteFillsByToggle :
    (scrolled 0x55 0x66 .xDir).fault = none ∧ (scrolled 0x55 0x66 .xDir).regs.scroll.next = .xDir ∧
      busy.fault = none ∧ busy.regs.scroll.next = .yDir := by decide

theorem witness_AddressLatchHasNoPhase : regions.fault = none ∧ regions.regs.scroll.next = .xDir := by decide

/-- After the address write the cursor is `0x3FFF`, just valid, and `0x4000`, just not. -/
theorem witness_AddressWriteCanReachInvalidCursor :
    (at' 0 0x123F).fault = none ∧
      ends (exec (.wrAddr 0xFF) (at' 0 0x123F)) (fun t => t.regs.addr == 0x3FFF && t.fault == none) = true ∧
      ends (exec (.wrAddr 0x00) (at' 0 0x1240)) (fun t => t.regs.addr == 0x4000 && t.fault == none) = true := by decide

/-- The clauses of `LoadResult` and `StoreResult` at both ends of each range. -/
theorem witness_LoadResult_StoreResult :
    regions.fault = none ∧ 0x0000#16 ≤ 0x1FFF#16 ∧ 0x1FFF#16 ≤ 0x1FFF#16 ∧
      (0x2000#16 ≤ 0x2000#16 ∧ 0x2000#16 ≤ 0x3EFF#16) ∧ (0x2000#16 ≤ 0x3EFF#16 ∧ 0x3EFF#16 ≤ 0x3EFF#16) ∧
      (0x3F00#16 ≤ 0x3F00#16 ∧ 0x3F00#16 ≤ 0x3FFF#16) ∧ (0x3F00#16 ≤ 0x3FFF#16 ∧ 0x3FFF#16 ≤ 0x3FFF#16) ∧
      0x4000#16 ≤ 0x4000#16 ∧ 0x4000#16 ≤ 0xFFFF#16 := by decide

/-- The ranges of those clauses do not overlap and leave no address out. -/
theorem witness_address_clauses_exclude (a : Word) :
    (decide (a ≤ 0x1FFF#16)).toNat + (decide (0x2000#16 ≤ a ∧ a ≤ 0x3EFF#16)).toNat +
      (decide (0x3F00#16 ≤ a ∧ a ≤ 0x3FFF#16)).toNat + (decide (0x4000#16 ≤ a)).toNat = 1 := by
  simp only [BitVec.le_def, Bool.toNat, cond_eq_ite, decide_eq_true_eq, BitVec.toNat_ofNat]
  split_ifs <;> omega

theorem witness_Load16Result :
    regions.fault = none ∧ 0x0000#16 ≤ 0x3FFE#16 ∧ 0x3FFE#16 ≤ 0x3FFE#16 ∧ ¬ 0x3FFF#16 ≤ 0x3FFE#16 ∧
      ¬ 0x4000#16 ≤ 0x3FFF#16 ∧ 0x4000#16 ≤ 0x4000#16 ∧ 0x4000#16 ≤ 0xFFFF#16 := by decide

theorem witness_Load16AcrossBoundaries : regions.fault = none ∧ 0 < 3 ∧ 2 < 3 ∧ 0 < 7 ∧ 6 < 7 := by decide

theorem witness_AliasSets_inv : regions.Inv := by
  refine ⟨by decide, ?_⟩
  intro f h
  cases h

theorem witness_AliasSets :
    regions.fault = none ∧ 0x2000#16 ≤ 0x2000#16 ∧ 0x2000#16 ≤ 0x3FFF#16 ∧ aliases 0x2000 0x3000 ∧ aliases 0x2EFF 0x3EFF ∧
      aliases 0x3F1F 0x3FFF :=
  ⟨rfl, by decide, by decide, by decide, by decide, by decide⟩

theorem witness_AliasSets_apart : ¬ aliases 0x2F00 0x3F00 ∧ ¬ aliases 0x3F00 0x3F10 ∧ ¬ aliases 0x1FFF 0x2FFF :=
  ⟨by decide, by decide, by decide⟩

/-- Cells of every store: both buffers and the cartridge. -/
theorem witness_AliasSets_cells :
    resolve 0x1FFF = some (.pattern 0x1FFF) ∧ resolve 0x2000 = some (.nametable 0x000) ∧
      resolve 0x3EFF = some (.nametable 0xEFF) ∧ resolve 0x2FFF = some (.nametable 0xFFF) ∧
      resolve 0x3F00 = some (.palette 0x00) ∧ resolve 0x3FFF = some (.palette 0x1F) ∧ resolve 0x4000 = none := by decide

theorem witness_Inv_live : busy.Inv := by
  refine ⟨by decide, ?_⟩
  intro f h
  cases h

theorem witness_Inv_faulted : faulted.Inv := by
  refine ⟨by decide, ?_⟩
  intro f h
  cases h
  rfl

theorem witness_StoreChangesOneCell :
    busy.fault = none ∧ 0x3FFF#16 ≤ 0x3FFF#16 ∧ (0x2000#16 ≤ 0x2000#16 ∧ aliases 0x2000 0x3000) ∧
      ¬ 0x2000#16 ≤ 0x1FFF#16 ∧ ¬ aliases 0x2000 0x2001 := by decide

theorem witness_LastStoreWins :
    (∃ t, exec (.store 0x2EFF 0x11) busy = .next t ∧ t.fault = none) ∧ aliases 0x2EFF 0x3EFF :=
  ⟨⟨_, rfl, rfl⟩, by decide⟩

theorem witness_StoresCommute :
    0x3EFF#16 ≤ 0x3FFF#16 ∧ 0x3FFF#16 ≤ 0x3FFF#16 ∧ ¬ aliases 0x3EFF 0x3FFF ∧
      (∃ t, exec (.store 0x3EFF 0x11) busy = .next t) ∧ ∃ u, exec (.store 0x3FFF 0x22) busy = .next u :=
  ⟨by decide, by decide, by decide, ⟨_, rfl⟩, _, rfl⟩

/-- For the two statements about the data write: the last valid cursor and the first invalid one, with the stride bit set. -/
theorem witness_DataWrite :
    (at' 0x04 0x3FFF).fault = none ∧ (at' 0x04 0x3FFF).regs.addr ≤ 0x3FFF#16 ∧ (at' 0x04 0x4000).fault = none ∧
      0x4000#16 ≤ (at' 0x04 0x4000).regs.addr ∧ (0x2000#16 ≤ (at' 0x04 0x3FFF).regs.addr ∧ aliases 0x3FFF 0x3F1F) := by decide

theorem witness_DataWriteChangesOneCell_inv : (at' 0x04 0x3FFF).Inv := by
  refine ⟨by decide, ?_⟩
  intro f h
  cases h

/-- The highest cursor an advance leaves. -/
theorem witness_CursorAdvanceNeverWraps :
    ∃ t, exec (.wrData 0x01) (at' 0x04 0x3FFF) = .next t ∧ t.fault = none ∧ t.regs.addr = 0x401F#16 :=
  ⟨_, rfl, rfl, by decide⟩

theorem witness_RunningOffTheTop :
    ((at' 0x04 0x3FE0).fault = none ∧ 0x3FE0#16 ≤ (at' 0x04 0x3FE0).regs.addr ∧ (at' 0x04 0x3FE0).regs.addr ≤ 0x3FFF#16 ∧
      (at' 0x04 0x3FE0).regs.ctrl.toNat / 4 % 2 = 1) ∧
      (at' 0x00 0x3FFF).fault = none ∧ 0x3FE0#16 ≤ (at' 0x00 0x3FFF).regs.addr ∧
      (at' 0x00 0x3FFF).regs.addr ≤ 0x3FFF#16 ∧ (at' 0x00 0x3FFF).regs.ctrl.toNat / 4 % 2 = 0 := by decide

theorem witness_ZeroStrideOverwritesOneCell :
    busy.fault = none ∧ busy.regs.ctrl.toNat / 4 % 2 = 0 ∧ busy.regs.addr ≤ 0x3FFF#16 := by decide

/-- Palette indices at both ends, with no write and with seven writes before the last. -/
theorem witness_PaletteStrideKeepsCell :
    ((at' 0x04 0x3F00).fault = none ∧ (at' 0x04 0x3F00).regs.ctrl.toNat / 4 % 2 = 1 ∧
      (at' 0x04 0x3F00).regs.addr.toNat = 0x3F00 + 0 ∧ 0 < 32) ∧
      ((at' 0x04 0x3F1F).fault = none ∧ (at' 0x04 0x3F1F).regs.ctrl.toNat / 4 % 2 = 1 ∧
        (at' 0x04 0x3F1F).regs.addr.toNat = 0x3F00 + 31 ∧ 31 < 32) ∧
      ([] : List (BitVec 10 × Byte)).length ≤ 7 ∧ (List.replicate 7 ((0 : BitVec 10), (0x10 : Byte))).length = 7 := by decide

theorem witness_PaletteStrideKeepsCell_inv : (at' 0x04 0x3F1F).Inv := by
  refine ⟨by decide, ?_⟩
  intro f h
  cases h

theorem witness_PatternRangeWritesWalkOn :
    (at' 0x04 0x1FE0).fault = none ∧ (at' 0x04 0x1FE0).regs.addr ≤ 0x1FFF#16 ∧
      (at' 0x04 0x1FE0).regs.ctrl.toNat / 4 % 2 = 1 ∧ 0x1FE0#16 ≤ (at' 0x04 0x1FE0).regs.addr ∧
      (at' 0x04 0x1FFF).regs.addr ≤ 0x1FFF#16 := by decide

theorem witness_StrideChangeTakesEffectAtOnce :
    (at' 0x04 0x3FDF).fault = none ∧ (at' 0x04 0x3FDF).regs.addr.toNat + 32 ≤ 0x3FFF := by decide

/-- Between two address writes the cursor is the last valid one, and the first invalid one. -/
theorem witness_DataWriteBetweenAddressWrites :
    (at' 0x04 0x203F).fault = none ∧
      ends (exec (.wrAddr 0xFF) (at' 0x04 0x203F)) (fun t => decide (t.regs.addr ≤ 0x3FFF#16)) = true ∧
      ends (exec (.wrAddr 0x00) (at' 0x04 0x2040)) (fun t => decide (0x4000#16 ≤ t.regs.addr)) = true := by decide

theorem witness_OnlyTwoOperationsRaiseUnimplemented :
    regions.fault = none ∧ (∃ t op, exec (.store16 0xFFFF 0) regions = .next t ∧ t.fault = some (.unimplemented op)) ∧
      ∃ t op, exec (.wrOamdata 0) regions = .next t ∧ t.fault = some (.unimplemented op) :=
  ⟨rfl, ⟨_, .store16, rfl, rfl⟩, _, .wrOamdata, rfl, rfl⟩

theorem witness_InvalidAddressExactlyWhen :
    regions.fault = none ∧ faults (exec (.load 0x4000) regions) (.invalidAddress 0x4000) = true ∧
      faults (exec (.store 0xFFFF 0) regions) (.invalidAddress 0xFFFF) = true ∧
      faults (exec (.load16 0x4000) regions) (.invalidAddress 0x4000) = true ∧
      faults (exec (.load16 0x3FFF) regions) (.invalidAddress 0x4000) = true ∧
      faults (exec (.wrData 0) (at' 0 0x4000)) (.invalidAddress 0x4000) = true := by decide

/-- The bounded operations at the last address they complete at. -/
theorem witness_TotalOperationsNeverFault :
    regions.fault = none ∧ 0x3FFF#16 ≤ 0x3FFF#16 ∧ 0x3FFE#16 ≤ 0x3FFE#16 ∧ (at' 0 0x3FFF).regs.addr ≤ 0x3FFF#16 ∧
      (at' 0 0x3FFF).fault = none := by decide

theorem witness_FaultEntryChangesNothingElse :
    ∃ t, exec (.wrData 0x22) (at' 0x04 0x4010) = .next t ∧ t.fault = some (.invalidAddress 0x4010) :=
  ⟨_, rfl, rfl⟩

theorem witness_FaultedBlockIsTerminal :
    faulted.fault = some (.invalidAddress 0x4010) ∧ faulted.pending ≠ [] ∧ runFor 0 faulted = .next faulted ∧
      runFor 3 { faulted with pending := [] } = .next { faulted with pending := [] } :=
  ⟨rfl, by decide, rfl, rfl⟩

theorem witness_RefusalsAreTheClosedList :
    refuses (step faulted) .faulted = true ∧ refuses (step { busy with pending := [.busRead 0x2002] }) .noReadPath = true ∧
      refuses (step (issued busy [0x1FFF00#24])) .outOfWindow = true ∧
      refuses (step (issued busy [0x400000#24])) .outOfWindow = true := by decide

theorem witness_OamDataAliasesAreFatal :
    busy.fault = none ∧ 1023 < 1024 ∧
      (issued busy [0x3FFCAA#24]).pending = [.busWrite (BitVec.ofNat 16 (0x2004 + 8 * 1023)) 0xAA] ∧
      (issued busy [0x2004AA#24]).pending = [.busWrite (BitVec.ofNat 16 (0x2004 + 8 * 0)) 0xAA] := by decide

/-- For the frame: an operation that writes its own element only, one that faults, and one that writes none. -/
theorem witness_OnlyNamedOperationsWriteEachElement :
    (∃ t, exec (.wrData 0x01) busy = .next t) ∧ (∃ t, exec (.store16 0 0) busy = .next t) ∧
      (∃ t, exec .spriteSize busy = .next t) ∧ (Instr.wrData 0x01).writesCtrl = false ∧
      (Instr.wrData 0x01).writesMask = false ∧ (Instr.wrData 0x01).writesStatus = false ∧
      (Instr.wrData 0x01).writesOamAddr = false ∧ (Instr.wrData 0x01).writesScroll = false ∧
      Instr.spriteSize.writesCursor = false ∧ Instr.spriteSize.writesVram = false :=
  ⟨⟨_, rfl⟩, ⟨_, rfl⟩, ⟨_, rfl⟩, by decide⟩

theorem witness_BusWriteFootprint :
    (issued busy [0x200777#24]).pending = [.busWrite 0x2007 0x77] ∧ (∃ t, step (issued busy [0x200777#24]) = .next t) ∧
      0x1FFF#16 ≤ 0x1FFF#16 ∧ resolve busy.regs.addr ≠ some (.nametable 0x109) ∧ 0x2007#16 &&& 7#16 ≠ 5#16 ∧
      (∃ t, step (issued busy [0x3FFD0A#24]) = .next t) ∧ 0x3FFD#16 &&& 7#16 ≠ 6#16 ∧ 0x3FFD#16 &&& 7#16 ≠ 7#16 :=
  ⟨rfl, ⟨_, rfl⟩, by decide, by decide, by decide, ⟨_, rfl⟩, by decide⟩

theorem witness_CpuBusCannotChangeStatus :
    (∀ r ∈ (issued busy [0x2002FF#24, 0x200084#24]).pending, fromCpuBus r = true) ∧
      ∃ t, runFor 2 (issued busy [0x2002FF#24, 0x200084#24]) = .next t :=
  ⟨by decide, _, rfl⟩

/-- Runs with an odd and with an even number of scroll writes. -/
theorem witness_ToggleFollowsScrollParity :
    (∃ t, RunEnds (issued State.reset [0x20050A#24]) t ∧ t.regs.scroll.next = .yDir) ∧
      ∃ t, RunEnds (issued busy [0x20050A#24, 0x2002FF#24, 0x200514#24]) t ∧ t.regs.scroll.next = .yDir :=
  ⟨⟨_, rfl, rfl⟩, _, rfl, rfl⟩

theorem witness_InvariantKeptByEveryStep :
    (∃ t, step (issued busy [0x200777#24]) = .next t) ∧ ∃ t, step (issued busy [0x2004AA#24]) = .next t :=
  ⟨⟨_, rfl⟩, _, rfl⟩

theorem witness_InvariantKeptByEveryStep_inv : (issued busy [0x200777#24]).Inv := by
  refine ⟨by decide, ?_⟩
  intro f h
  cases h

theorem witness_TotalOperationsRunToSuccess :
    busy.fault = none ∧ ∀ r ∈ busy.pending, ∃ i, decode r = .ok i ∧ i.alwaysCompletes = true := by
  refine ⟨by decide, ?_⟩
  intro r hr
  rcases List.mem_cons.mp hr with rfl | hr
  · exact ⟨.wrScroll 0x0A, by decide, by decide⟩
  · rw [List.mem_singleton.mp hr]
    exact ⟨.load 0x3000, by decide, by decide⟩

end Sys2Proof.Tests
end

section
/-! PROOFS. Mirroring of the CPU-bus window (spec/30_encoding.md R51). In the window the decoder reads an address only through
its field `reg`, and `reg` is `a & 7`; so mirrors of one offset decode to one operation, and a step performs that operation. -/

namespace Sys2Proof

theorem inWindow_iff (a : Word) : inWindow a = true ↔ 0x2000#16 ≤ a ∧ a ≤ 0x3FFF#16 := by
  simp [inWindow]

/-- R50: the register offset `a & 7` as arithmetic. -/
theorem and_seven_toNat (a : Word) : (a &&& 7#16).toNat = a.toNat % 8 :=
  Nat.and_two_pow_sub_one_eq_mod a.toNat 3

/-- R50: two addresses have one field `reg` exactly when they have one offset `a & 7`. -/
theorem regField_eq_iff (a b : Word) : regField a = regField b ↔ a &&& 7#16 = b &&& 7#16 := by
  rw [← BitVec.toNat_inj, ← BitVec.toNat_inj, regField_toNat, regField_toNat, and_seven_toNat, and_seven_toNat]

/-- R51: in the window, writes with one offset decode to one operation. -/
theorem decode_busWrite_congr {a b : Word} (ha : inWindow a = true) (hb : inWindow b = true)
    (hab : a &&& 7#16 = b &&& 7#16) (v : Byte) : decode (.busWrite a v) = decode (.busWrite b v) := by
  rw [decode_busWrite_inWindow ha, decode_busWrite_inWindow hb, (regField_eq_iff a b).mpr hab]

/-- R51: every address of the window lies between the lowest and the highest mirror of its offset. -/
theorem mirror_bounds {a : Word} (h : inWindow a = true) :
    0x2000#16 + (a &&& 7#16) ≤ a ∧ a ≤ 0x3FF8#16 + (a &&& 7#16) := by
  simp only [inWindow_iff, BitVec.le_def, BitVec.toNat_ofNat] at h
  simp only [BitVec.le_def, BitVec.toNat_add, and_seven_toNat, BitVec.toNat_ofNat]
  omega

/-- R51: the lowest mirror of the offset `k`, `0x2000 + k`, and the highest, `0x3FF8 + k`, have the offset `k`. -/
theorem outermost_mirrors_offset {k : Word} (hk : k ≤ 7#16) :
    (0x2000#16 + k) &&& 7#16 = k ∧ (0x3FF8#16 + k) &&& 7#16 = k := by
  simp only [BitVec.le_def, BitVec.toNat_ofNat] at hk
  simp only [← BitVec.toNat_inj, and_seven_toNat, BitVec.toNat_add, BitVec.toNat_ofNat]
  omega

end Sys2Proof

namespace Sys2Proof.Machine

/-- What dispatch does with a request depends on its decoding alone. -/
theorem dispatch_congr {q r : Request} (h : decode q = decode r) (s : State) : dispatch q s = dispatch r s := by
  simp only [dispatch, h]

/-- Oldest requests that decode alike make the same step, whatever is issued after them. -/
theorem step_congr {q r : Request} (h : decode q = decode r) (s : State) (rest : List Request) :
    step { s with pending := q :: rest } = step { s with pending := r :: rest } :=
  calc step { s with pending := q :: rest }
    _ = dispatch q (s.withPending rest) := step_cons rfl
    _ = dispatch r (s.withPending rest) := dispatch_congr h _
    _ = step { s with pending := r :: rest } := (step_cons (s := { s with pending := r :: rest }) rfl).symm

/-- Settles O8: mirrored writes decode to one operation, and the step is a function of what its request decodes to. -/
theorem mirroredWritesHaveOneEffect : Obligations.MirroredWritesHaveOneEffect := by
  unfold Obligations.MirroredWritesHaveOneEffect
  refine ⟨?_, ?_, ?_⟩
  · intro a b v s rest ha₁ ha₂ hb₁ hb₂ hab
    have hdecode : decode (.busWrite a v) = decode (.busWrite b v) :=
      decode_busWrite_congr ((inWindow_iff a).mpr ⟨ha₁, ha₂⟩) ((inWindow_iff b).mpr ⟨hb₁, hb₂⟩) hab v
    exact step_congr hdecode s rest
  · intro a ha₁ ha₂
    exact mirror_bounds ((inWindow_iff a).mpr ⟨ha₁, ha₂⟩)
  · intro k hk
    exact outermost_mirrors_offset hk

end Sys2Proof.Machine
end

section
/-! PROOFS. The accessors of the control and mask bytes (spec/40_regbank_decode.md R65 to R80). The effect of an accessor is
the state it finds and a value computed from one stored byte; each formula of a control field is then arithmetic on the
byte. -/

namespace Sys2Proof.Machine

/-- R80: on a live block, an operation whose effect is the state it finds and a value changes the report alone. -/
theorem exec_of_effectOf_value {i : Instr} {s : State} {v : Value} (hs : s.fault = none)
    (h : effectOf i s = some (.ok (s, .value v))) : exec i s = .next { s with reply := some (.value v) } :=
  (exec_eq_perform h).trans (perform_ok hs s (.value v))

/-- R65 to R70: the effect of a control accessor is one function of `ctrl`. -/
theorem effectOf_of_readsCtrl {i : Instr} (h : i.readsCtrl = true) :
    ∃ f : Byte → Value, ∀ s : State, effectOf i s = some (.ok (s, .value (f s.regs.ctrl))) := by
  cases i with
  | baseNametableAddr => exact ⟨fun c => .word (baseNametableAddrOf c), fun _ => rfl⟩
  | vramAddrIncrement => exact ⟨fun c => .word (vramAddrIncrementOf c), fun _ => rfl⟩
  | spritePatternTableAddr => exact ⟨fun c => .word (spritePatternTableAddrOf c), fun _ => rfl⟩
  | backgroundPatternTableAddr => exact ⟨fun c => .word (backgroundPatternTableAddrOf c), fun _ => rfl⟩
  | spriteSize => exact ⟨fun c => .size (spriteSizeOf c), fun _ => rfl⟩
  | vblankNmiEnabled => exact ⟨fun c => .flag (vblankNmiEnabledOf c), fun _ => rfl⟩
  | _ => cases h

/-- R72 to R79: the effect of a mask accessor is one function of `mask`. -/
theorem effectOf_of_readsMask {i : Instr} (h : i.readsMask = true) :
    ∃ f : Byte → Value, ∀ s : State, effectOf i s = some (.ok (s, .value (f s.regs.mask))) := by
  cases i with
  | grayscale => exact ⟨fun m => .flag (grayscaleOf m), fun _ => rfl⟩
  | showBackgroundLeft => exact ⟨fun m => .flag (showBackgroundLeftOf m), fun _ => rfl⟩
  | showSpritesLeft => exact ⟨fun m => .flag (showSpritesLeftOf m), fun _ => rfl⟩
  | showBackground => exact ⟨fun m => .flag (showBackgroundOf m), fun _ => rfl⟩
  | showSprites => exact ⟨fun m => .flag (showSpritesOf m), fun _ => rfl⟩
  | intensifyRed => exact ⟨fun m => .flag (intensifyRedOf m), fun _ => rfl⟩
  | intensifyGreen => exact ⟨fun m => .flag (intensifyGreenOf m), fun _ => rfl⟩
  | intensifyBlue => exact ⟨fun m => .flag (intensifyBlueOf m), fun _ => rfl⟩
  | _ => cases h

/-- A register update that answers a next state leaves a live block with the new registers. -/
theorem updateRegs_next {s t : State} {r : Regs} (h : updateRegs s r = .next t) : t.fault = none ∧ t.regs = r := by
  obtain ⟨hs, ⟨u, q, he, rfl⟩ | ⟨f, he, rfl⟩⟩ := perform_next h
  · cases he
    exact ⟨hs, rfl⟩
  · cases he

/-- R111: what `WR.CTRL` hands to the RegisterBank. -/
theorem exec_wrCtrl (v : Byte) (s : State) : exec (.wrCtrl v) s = updateRegs s (s.regs.setCtrl v) := rfl

/-- R112: what `WR.MASK` hands to the RegisterBank. -/
theorem exec_wrMask (v : Byte) (s : State) : exec (.wrMask v) s = updateRegs s (s.regs.setMask v) := rfl

/-- R80: after a register update, an accessor reports its function of the new byte. -/
theorem exec_accessor_of_updateRegs {i : Instr} {f : Byte → Value} {byte : Regs → Byte} {s t : State} {r : Regs}
    (hf : ∀ u : State, effectOf i u = some (.ok (u, .value (f (byte u.regs))))) (h : updateRegs s r = .next t) :
    exec i t = .next { t with reply := some (.value (f (byte r))) } := by
  obtain ⟨hlive, rfl⟩ := updateRegs_next h
  exact exec_of_effectOf_value hlive (hf t)

/-- Settles O19: an accessor's effect is a function of its byte, and the register write leaves a live block whose byte is the
one written. -/
theorem accessorsArePure : Obligations.AccessorsArePure := by
  unfold Obligations.AccessorsArePure
  refine ⟨fun i hi => ?_, fun i hi => ?_⟩
  · obtain ⟨f, hf⟩ := effectOf_of_readsCtrl hi
    refine ⟨f, fun s hs => exec_of_effectOf_value hs (hf s), fun v s t h => ?_⟩
    rw [exec_wrCtrl] at h
    exact exec_accessor_of_updateRegs (byte := Regs.ctrl) hf h
  · obtain ⟨f, hf⟩ := effectOf_of_readsMask hi
    refine ⟨f, fun s hs => exec_of_effectOf_value hs (hf s), fun v s t h => ?_⟩
    rw [exec_wrMask] at h
    exact exec_accessor_of_updateRegs (byte := Regs.mask) hf h

/-- R6: bit `k` of a byte as arithmetic. -/
theorem bitOf_eq_decide (b : Byte) (k : Nat) : bitOf b k = decide (b.toNat / 2 ^ k % 2 = 1) :=
  Nat.testBit_eq_decide_div_mod_eq

/-- R65 as arithmetic on the byte. -/
theorem baseNametableAddrOf_eq_ofNat (c : Byte) :
    baseNametableAddrOf c = BitVec.ofNat 16 (0x2000 + c.toNat % 4 * 0x400) := by
  apply BitVec.eq_of_toNat_eq
  simp [baseNametableAddrOf]

/-- R66 as arithmetic on the byte. -/
theorem vramAddrIncrementOf_eq_ite (c : Byte) :
    vramAddrIncrementOf c = if c.toNat / 4 % 2 = 1 then 32#16 else 0#16 := by
  simp [vramAddrIncrementOf, bitOf_eq_decide, Config.vramIncSet, Config.vramIncClear]

/-- R67 as arithmetic on the byte. -/
theorem spritePatternTableAddrOf_eq_ite (c : Byte) :
    spritePatternTableAddrOf c = if c.toNat / 8 % 2 = 1 then 0x1000#16 else 0x0000#16 := by
  simp [spritePatternTableAddrOf, bitOf_eq_decide]

/-- R68 as arithmetic on the byte. -/
theorem backgroundPatternTableAddrOf_eq_ite (c : Byte) :
    backgroundPatternTableAddrOf c = if c.toNat / 16 % 2 = 1 then 0x1000#16 else 0x0000#16 := by
  simp [backgroundPatternTableAddrOf, bitOf_eq_decide]

/-- R70 as arithmetic on the byte. -/
theorem vblankNmiEnabledOf_eq_decide (c : Byte) : vblankNmiEnabledOf c = decide (c.toNat / 128 % 2 = 1) :=
  bitOf_eq_decide c 7

/-- Settles O13: the accessor reports `baseNametableAddrOf`, which is the rule's formula. -/
theorem baseNametableAddrResult : Obligations.BaseNametableAddrResult := by
  unfold Obligations.BaseNametableAddrResult
  intro s hs
  rw [← baseNametableAddrOf_eq_ofNat]
  exact exec_of_effectOf_value hs rfl

/-- Settles O14: the accessor reports `vramAddrIncrementOf`, which is the rule's formula. -/
theorem vramAddrIncrementResult : Obligations.VramAddrIncrementResult := by
  unfold Obligations.VramAddrIncrementResult
  intro s hs
  rw [← vramAddrIncrementOf_eq_ite]
  exact exec_of_effectOf_value hs rfl

/-- Settles O15: each accessor reports its field of `ctrl`, which is its rule's formula. -/
theorem controlFieldResults : Obligations.ControlFieldResults := by
  unfold Obligations.ControlFieldResults
  intro s hs
  rw [← spritePatternTableAddrOf_eq_ite, ← backgroundPatternTableAddrOf_eq_ite, ← vblankNmiEnabledOf_eq_decide]
  exact ⟨exec_of_effectOf_value hs rfl, exec_of_effectOf_value hs rfl, exec_of_effectOf_value hs rfl⟩

end Sys2Proof.Machine
end

section
/-! PROOFS. The register writes (spec/41_regbank_mutators.md R85 to R92, 43_dispatcher.md R111 to R117). A mutator and the bus
write that performs it have one effect: new registers, the rest of the state as it was, and no value to report. -/

namespace Sys2Proof.Machine

/-- R8, R94: on a live block, an operation whose effect is the registers `r` changes the registers and the report alone. -/
theorem exec_of_effectOf_withRegs {i : Instr} {s : State} {r : Regs} (hs : s.fault = none)
    (h : effectOf i s = some (.ok (s.withRegs r, .done))) :
    exec i s = .next { s with regs := r, reply := some .done } :=
  (exec_eq_perform h).trans (perform_ok hs (s.withRegs r) .done)

/-- R8: on a live block, an operation whose effect is the state it finds and no value changes the report alone. -/
theorem exec_of_effectOf_done {i : Instr} {s : State} (hs : s.fault = none)
    (h : effectOf i s = some (.ok (s, .done))) : exec i s = .next { s with reply := some .done } :=
  (exec_eq_perform h).trans (perform_ok hs s .done)

/-- Settles O20: each setter's effect, on either port, is the registers with its one byte replaced; the effect of `WR.STATUS`
is the state it finds. -/
theorem byteSettersStoreWholeByte : Obligations.ByteSettersStoreWholeByte := by
  unfold Obligations.ByteSettersStoreWholeByte
  intro s v hs
  refine ⟨?setCtrl, ?wrCtrl, ?setMask, ?wrMask, ?setOamAddr, ?wrOamaddr, ?wrStatus⟩
  case setCtrl | wrCtrl => exact exec_of_effectOf_withRegs (r := s.regs.setCtrl v) hs rfl
  case setMask | wrMask => exact exec_of_effectOf_withRegs (r := s.regs.setMask v) hs rfl
  case setOamAddr | wrOamaddr => exact exec_of_effectOf_withRegs (r := s.regs.setOamAddr v) hs rfl
  case wrStatus => exact exec_of_effectOf_done hs rfl

end Sys2Proof.Machine
end

section
/-! PROOFS. The totality rule (spec/60_exceptions.md R128). A VRAM access inside the address space answers, so each operation
the rule lists has an effect that is no fault; and an effect leaves `fault` as it finds it. -/

namespace Sys2Proof.Machine

/-! An access inside the VRAM address space answers. -/

theorem Vram.load_total (m : Vram) {a : Word} (h : a ≤ 0x3FFF#16) : ∃ b, m.load a = .ok b := by
  obtain ⟨c, hc⟩ := resolve_isSome h
  exact ⟨m.readCell c, load_of_resolve hc⟩

theorem Vram.store_total (m : Vram) {a : Word} (h : a ≤ 0x3FFF#16) (v : Byte) : ∃ n, m.store a v = .ok n := by
  obtain ⟨c, hc⟩ := resolve_isSome h
  exact ⟨m.writeCell c v, store_of_resolve hc v⟩

/-- R102: both bytes of a word at an address up to `0x3FFE` are inside the address space. -/
theorem Vram.load16_total (m : Vram) {a : Word} (h : a ≤ 0x3FFE#16) : ∃ w, m.load16 a = .ok w := by
  have ha : a.toNat ≤ 0x3FFE := h
  rcases load16_cases m a with ⟨-, lo, hi, -, -, e⟩ | ⟨h', -⟩ | ⟨h', -⟩
  · exact ⟨littleEndian lo hi, e⟩
  · omega
  · omega

/-! The effect of an operation whose access answers. -/

theorem effectOf_load_ok {s : State} {a : Word} {b : Byte} (h : s.vram.load a = .ok b) :
    effectOf (.load a) s = some (.ok (s, .value (.byte b))) := by
  rw [effectOf, h]
  rfl

theorem effectOf_load16_ok {s : State} {a w : Word} (h : s.vram.load16 a = .ok w) :
    effectOf (.load16 a) s = some (.ok (s, .value (.word w))) := by
  rw [effectOf, h]
  rfl

theorem effectOf_store_ok {s : State} {a : Word} {v : Byte} {m : Vram} (h : s.vram.store a v = .ok m) :
    effectOf (.store a v) s = some (.ok (s.withVram m, .done)) := by
  rw [effectOf, storeEffect, h]
  rfl

theorem effectOf_wrData_ok {s : State} {v : Byte} {m : Vram} (h : s.vram.store s.regs.addr v = .ok m) :
    effectOf (.wrData v) s = some (.ok ((s.withVram m).withRegs s.regs.advance, .done)) := by
  rw [effectOf, dataWriteEffect, h]
  rfl

/-- R8: an operation issued to a live block completes without a fault when its effect is no fault and leaves `fault` alone. -/
theorem exec_completes {i : Instr} {s u : State} {r : Reply} (hs : s.fault = none)
    (he : effectOf i s = some (.ok (u, r))) (hu : u.fault = s.fault) : ∃ t, exec i s = .next t ∧ t.fault = none :=
  ⟨u.withReply r, (exec_eq_perform he).trans (perform_ok hs u r), hu.trans hs⟩

/-- Settles O48: by cases on the operation. The four that access the VRAM do so inside the address space; of the others that
the rule lists, none can fault. -/
theorem totalOperationsNeverFault : Obligations.TotalOperationsNeverFault := by
  unfold Obligations.TotalOperationsNeverFault
  intro i s hs hi
  cases i with
  | wrOamdata _ | store16 _ _ | rd _ => exact hi.elim
  | load a =>
    obtain ⟨b, hb⟩ := s.vram.load_total hi
    exact exec_completes hs (effectOf_load_ok hb) rfl
  | store a v =>
    obtain ⟨m, hm⟩ := s.vram.store_total hi v
    exact exec_completes hs (effectOf_store_ok hm) rfl
  | load16 a =>
    obtain ⟨w, hw⟩ := s.vram.load16_total hi
    exact exec_completes hs (effectOf_load16_ok hw) rfl
  | wrData v =>
    obtain ⟨m, hm⟩ := s.vram.store_total hi v
    exact exec_completes hs (effectOf_wrData_ok hm) rfl
  | _ => exact exec_completes hs rfl rfl

end Sys2Proof.Machine
end

section
/-! PROOFS. The decoder and the encoder are inverse to each other (spec/30_encoding.md R50 to R57). A bus write is its two
fields `x` and `reg`, which the encoder puts together and the decoder takes apart; an operation of the internal port has one
name on both sides. -/

namespace Sys2Proof

/-- Settles O10: the encoder gives a bus write the offset of its operation, which the decoder reads back; the other requests
name their operation. -/
theorem encodedOperationDecodesToItself : Obligations.EncodedOperationDecodesToItself := by
  unfold Obligations.EncodedOperationDecodesToItself
  intro x i
  cases i with
  | wrCtrl v | wrMask v | wrStatus v | wrOamaddr v | wrOamdata v | wrScroll v | wrAddr v | wrData v =>
    exact decode_busAddress x _ v
  | _ => rfl

/-- R50: the bus write of the offset `k` at the mirror number `x`. -/
theorem encodeAt_busWriteOp (x : BitVec 10) (k : BitVec 3) (v : Byte) :
    encodeAt x (busWriteOp k v) = .busWrite (busAddress x k) v := by
  rcases offset_cases k with rfl | rfl | rfl | rfl | rfl | rfl | rfl | rfl <;> rfl

/-- R54: an operation of the internal port is encoded by its name. -/
theorem encodeAt_internalInstr (x : BitVec 10) (op : InternalOp) : encodeAt x (internalInstr op) = .internal op := by
  cases op <;> rfl

/-- Settles O11: by cases on the format. The mirror number of a bus write is its field `x`; the other formats ignore it. -/
theorem decodedRequestIsAnEncoding : Obligations.DecodedRequestIsAnEncoding := by
  unfold Obligations.DecodedRequestIsAnEncoding
  intro r i h
  cases r with
  | busWrite a v =>
    obtain ⟨ha, rfl⟩ := decode_busWrite_ok h
    refine ⟨mirrorField a, ?_⟩
    rw [encodeAt_busWriteOp, busAddress_fields ha]
  | busRead a =>
    cases h
    exact ⟨0, rfl⟩
  | internal op =>
    cases h
    exact ⟨0, encodeAt_internalInstr 0 op⟩

/-! The `mask`/`match` rows of R56. -/

/-- R56: the mask `0xE007` keeps the field `win`. -/
theorem winField_and_E007 (a : Word) : winField (a &&& 0xE007#16) = winField a := by
  apply BitVec.eq_of_getLsbD_eq
  intro k hk
  interval_cases k <;> simp [winField]

/-- R56: the mask `0xE007` keeps the field `reg`. -/
theorem regField_and_E007 (a : Word) : regField (a &&& 0xE007#16) = regField a := by
  apply BitVec.eq_of_getLsbD_eq
  intro k hk
  interval_cases k <;> simp [regField]

/-- R56: the mask `0xE000` leaves the field `win` and no other bit. -/
theorem and_E000_eq_shiftLeft (a : Word) : a &&& 0xE000#16 = (winField a).setWidth 16 <<< 13 := by
  apply BitVec.eq_of_getLsbD_eq
  intro k hk
  interval_cases k <;> simp [winField]

/-- R56: an address that matches `m` under the mask `0xE007` asks for the operation of `m`'s offset. -/
theorem decode_busWrite_of_match {a m : Word} (h : a &&& 0xE007#16 = m) (hm : winField m = 0b001#3) (v : Byte) :
    decode (.busWrite a v) = .ok (busWriteOp (regField m) v) := by
  subst h
  rw [winField_and_E007, winField_eq_one_iff] at hm
  rw [decode_busWrite_inWindow hm, regField_and_E007]

/-- R52: an address that does not match `0x2000` under the mask `0xE000` is outside the window. -/
theorem inWindow_eq_false_of_and_E000 {a : Word} (h : a &&& 0xE000#16 ≠ 0x2000#16) : inWindow a = false := by
  rw [← Bool.not_eq_true, ← winField_eq_one_iff]
  intro hwin
  exact h (by rw [and_E000_eq_shiftLeft, hwin]; rfl)

/-- Settles O7: each row's mask keeps the fields the decoder reads. -/
theorem busWriteOpcodeMap : Obligations.BusWriteOpcodeMap := by
  unfold Obligations.BusWriteOpcodeMap
  intro a v
  refine ⟨?_, ?_, ?_, ?_, ?_, ?_, ?_, ?_, fun h => decode_busWrite_outOfWindow (inWindow_eq_false_of_and_E000 h) v⟩ <;>
    exact fun h => decode_busWrite_of_match h (by decide) v

/-- Settles O9: each request is a literal, which the decoder evaluates. -/
theorem sampleRequestsDecode : Obligations.SampleRequestsDecode := by
  unfold Obligations.SampleRequestsDecode
  decide

end Sys2Proof
end

section
/-! PROOFS. What an operation leaves (spec/10_state.md R10, the column "written by"). An effect that is no fault leaves the
registers of `regsAfter` and the buffers of `vramAfter`, and every other field as it was; who writes an element is then read
off these two functions. -/

namespace Sys2Proof.Machine

/-- The registers that an operation leaves. -/
def regsAfter (i : Instr) (r : Regs) : Regs :=
  match i with
  | .wrCtrl v | .setCtrl v => r.setCtrl v
  | .wrMask v | .setMask v => r.setMask v
  | .wrOamaddr v | .setOamAddr v => r.setOamAddr v
  | .wrScroll v | .scrollWrite v => r.scrollWrite v
  | .wrAddr v | .addrWrite v => r.addrWrite v
  | .wrData _ => r.advance
  | .setSpriteOverflow on => r.setSpriteOverflow on
  | .setSpriteZeroHit on => r.setSpriteZeroHit on
  | .setInVblank on => r.setInVblank on
  | _ => r

/-- The buffers that an operation leaves, or the fault of its store. -/
def vramAfter (i : Instr) (s : State) : Except Fault Vram :=
  match i with
  | .wrData v => s.vram.store s.regs.addr v
  | .store a v => s.vram.store a v
  | _ => .ok s.vram

/-- A mapped access answers exactly when the access does. -/
theorem except_map_eq_ok_iff {α β : Type} {f : α → β} {x : Except Fault α} {b : β} :
    x.map f = .ok b ↔ ∃ a, x = .ok a ∧ f a = b := by
  cases x <;> simp [Except.map]

/-- A mapped access faults exactly as the access does. -/
theorem except_map_eq_error_iff {α β : Type} {f : α → β} {x : Except Fault α} {e : Fault} :
    x.map f = .error e ↔ x = .error e := by
  cases x <;> simp [Except.map]

/-- R9, R10: an effect that is no fault writes the registers and the buffers by `regsAfter` and `vramAfter`, and nothing
else. -/
theorem effectOf_ok {i : Instr} {s u : State} {r : Reply} (h : effectOf i s = some (.ok (u, r))) :
    ∃ m, vramAfter i s = .ok m ∧ u = (s.withVram m).withRegs (regsAfter i s.regs) := by
  cases i with
  | rd a => cases h
  | wrOamdata v | store16 a v => cases h
  | load a | load16 a =>
    obtain ⟨x, -, hx⟩ := except_map_eq_ok_iff.mp (Option.some.inj h)
    cases hx
    exact ⟨s.vram, rfl, rfl⟩
  | store a v | wrData v =>
    obtain ⟨m, hm, hx⟩ := except_map_eq_ok_iff.mp (Option.some.inj h)
    cases hx
    exact ⟨m, hm, rfl⟩
  | _ =>
    cases h
    exact ⟨s.vram, rfl, rfl⟩

/-- What an operation that answers a next state can have done: its whole effect, or its fault (R9). -/
theorem exec_next_cases {i : Instr} {s t : State} (h : exec i s = .next t) :
    s.fault = none ∧
      ((∃ m u r, effectOf i s = some (.ok (u, r)) ∧ vramAfter i s = .ok m ∧
          u = (s.withVram m).withRegs (regsAfter i s.regs) ∧ t = u.withReply r) ∨
        ∃ f, effectOf i s = some (.error f) ∧ t = { s with fault := some f, reply := some (.failed f) }) := by
  obtain ⟨hs, e, he, ⟨u, r, rfl, rfl⟩ | ⟨f, rfl, rfl⟩⟩ := exec_next h
  · obtain ⟨m, hm, hu⟩ := effectOf_ok he
    exact ⟨hs, .inl ⟨m, u, r, he, hm, hu, rfl⟩⟩
  · exact ⟨hs, .inr ⟨f, he, takeFault_live hs f⟩⟩

/-! R10: which operation leaves which element. -/

theorem regsAfter_ctrl {i : Instr} (h : i.writesCtrl = false) (r : Regs) : (regsAfter i r).ctrl = r.ctrl := by
  cases i with
  | wrCtrl _ | setCtrl _ => cases h
  | _ => rfl

theorem regsAfter_mask {i : Instr} (h : i.writesMask = false) (r : Regs) : (regsAfter i r).mask = r.mask := by
  cases i with
  | wrMask _ | setMask _ => cases h
  | _ => rfl

theorem regsAfter_status {i : Instr} (h : i.writesStatus = false) (r : Regs) : (regsAfter i r).status = r.status := by
  cases i with
  | setSpriteOverflow _ | setSpriteZeroHit _ | setInVblank _ => cases h
  | _ => rfl

theorem regsAfter_oamAddr {i : Instr} (h : i.writesOamAddr = false) (r : Regs) :
    (regsAfter i r).oamAddr = r.oamAddr := by
  cases i with
  | wrOamaddr _ | setOamAddr _ => cases h
  | _ => rfl

theorem regsAfter_scroll {i : Instr} (h : i.writesScroll = false) (r : Regs) : (regsAfter i r).scroll = r.scroll := by
  cases i with
  | wrScroll _ | scrollWrite _ => cases h
  | _ => rfl

theorem regsAfter_addr {i : Instr} (h : i.writesCursor = false) (r : Regs) : (regsAfter i r).addr = r.addr := by
  cases i with
  | wrAddr _ | addrWrite _ | wrData _ => cases h
  | _ => rfl

theorem vramAfter_eq {i : Instr} (h : i.writesVram = false) (s : State) : vramAfter i s = .ok s.vram := by
  cases i with
  | store _ _ | wrData _ => cases h
  | _ => rfl

/-- R10: a part of the registers that `regsAfter` leaves is as it was, whether or not the operation faults. -/
theorem exec_regs_part {α : Type} {p : Regs → α} {i : Instr} {s t : State} (hp : p (regsAfter i s.regs) = p s.regs)
    (h : exec i s = .next t) : p t.regs = p s.regs := by
  obtain ⟨-, ⟨m, u, r, -, -, rfl, rfl⟩ | ⟨f, -, rfl⟩⟩ := exec_next_cases h
  · exact hp
  · rfl

/-- R13: an operation other than the three mutators leaves `status`. -/
theorem exec_status {i : Instr} {s t : State} (hi : i.writesStatus = false) (h : exec i s = .next t) :
    t.regs.status = s.regs.status :=
  exec_regs_part (p := Regs.status) (regsAfter_status hi _) h

/-- R16: an operation other than a scroll write leaves the scroll latch. -/
theorem exec_scroll {i : Instr} {s t : State} (hi : i.writesScroll = false) (h : exec i s = .next t) :
    t.regs.scroll = s.regs.scroll :=
  exec_regs_part (p := Regs.scroll) (regsAfter_scroll hi _) h

/-- R17: an operation other than an address write and a data write leaves the cursor. -/
theorem exec_addr {i : Instr} {s t : State} (hi : i.writesCursor = false) (h : exec i s = .next t) :
    t.regs.addr = s.regs.addr :=
  exec_regs_part (p := Regs.addr) (regsAfter_addr hi _) h

/-- R18, R19: an operation other than a store and a data write leaves the buffers. -/
theorem exec_vram {i : Instr} {s t : State} (hi : i.writesVram = false) (h : exec i s = .next t) : t.vram = s.vram := by
  obtain ⟨-, ⟨m, u, r, -, hm, rfl, rfl⟩ | ⟨f, -, rfl⟩⟩ := exec_next_cases h
  · rw [vramAfter_eq hi] at hm
    cases hm
    rfl
  · rfl

/-- R42: no operation issues or withdraws one. -/
theorem exec_pending {i : Instr} {s t : State} (h : exec i s = .next t) : t.pending = s.pending := by
  obtain ⟨-, ⟨m, u, r, -, -, rfl, rfl⟩ | ⟨f, -, rfl⟩⟩ := exec_next_cases h <;> rfl

/-- Settles O54: element by element, from what `regsAfter` and `vramAfter` leave. -/
theorem onlyNamedOperationsWriteEachElement : Obligations.OnlyNamedOperationsWriteEachElement := by
  unfold Obligations.OnlyNamedOperationsWriteEachElement
  intro i s t h
  exact ⟨fun hi => exec_regs_part (p := Regs.ctrl) (regsAfter_ctrl hi _) h,
    fun hi => exec_regs_part (p := Regs.mask) (regsAfter_mask hi _) h,
    fun hi => exec_status hi h,
    fun hi => exec_regs_part (p := Regs.oamAddr) (regsAfter_oamAddr hi _) h,
    fun hi => exec_scroll hi h,
    fun hi => exec_addr hi h,
    fun hi => exec_vram hi h,
    exec_pending h⟩

end Sys2Proof.Machine
end

section
/-! PROOFS. Faults and refusals (spec/60_exceptions.md R125 to R132). An operation issued to a live block faults exactly when
its effect is a fault, and only the bus read is refused; a faulted block refuses everything. -/

namespace Sys2Proof.Machine

/-! A live block. -/

/-- R130: on a live block, an operation whose effect is a fault enters it and does nothing else. -/
theorem exec_of_effectOf_error {i : Instr} {s : State} {f : Fault} (hs : s.fault = none)
    (h : effectOf i s = some (.error f)) : exec i s = .next { s with fault := some f, reply := some (.failed f) } := by
  rw [exec_eq_perform h, perform_error hs, takeFault_live hs]

/-- R130: the fault of the next state is the effect's. -/
theorem exec_faults_iff {i : Instr} {s : State} {f : Fault} (hs : s.fault = none) :
    (∃ t, exec i s = .next t ∧ t.fault = some f) ↔ effectOf i s = some (.error f) := by
  constructor
  · rintro ⟨t, h, ht⟩
    obtain ⟨-, ⟨m, u, r, -, -, rfl, rfl⟩ | ⟨g, hg, rfl⟩⟩ := exec_next_cases h
    · cases hs.symm.trans ht
    · cases ht
      exact hg
  · intro h
    exact ⟨_, exec_of_effectOf_error hs h, rfl⟩

/-- Settles O49: an effect that is no fault leaves the live block's `fault`, so the next state is the fault's entry. -/
theorem faultEntryChangesNothingElse : Obligations.FaultEntryChangesNothingElse := by
  unfold Obligations.FaultEntryChangesNothingElse
  intro i s t f h ht
  obtain ⟨hs, ⟨m, u, r, -, -, rfl, rfl⟩ | ⟨g, -, rfl⟩⟩ := exec_next_cases h
  · cases hs.symm.trans ht
  · cases ht
    rfl

/-- Settles O45: the effect of both operations is the fault. -/
theorem unimplementedOperationsFault : Obligations.UnimplementedOperationsFault := by
  unfold Obligations.UnimplementedOperationsFault
  intro s v a w hs
  exact ⟨exec_of_effectOf_error hs rfl, exec_of_effectOf_error hs rfl⟩

/-! Which access faults, and how (the table of R126). -/

theorem Vram.load_eq_error_iff {m : Vram} {a : Word} {f : Fault} :
    m.load a = .error f ↔ 0x4000 ≤ a.toNat ∧ f = .invalidAddress a := by
  rcases m.load_cases a with ⟨h, c, -, e⟩ | ⟨h, e⟩
  · simp [e]
    omega
  · simp [e, h, eq_comm]

theorem Vram.store_eq_error_iff {m : Vram} {a : Word} {v : Byte} {f : Fault} :
    m.store a v = .error f ↔ 0x4000 ≤ a.toNat ∧ f = .invalidAddress a := by
  rcases m.store_cases a v with ⟨h, c, -, e⟩ | ⟨h, e⟩
  · simp [e]
    omega
  · simp [e, h, eq_comm]

theorem Vram.load16_eq_error_iff {m : Vram} {a : Word} {f : Fault} :
    m.load16 a = .error f ↔
      (0x4000 ≤ a.toNat ∧ f = .invalidAddress a) ∨ (a = 0x3FFF#16 ∧ f = .invalidAddress 0x4000#16) := by
  have ha : a = 0x3FFF#16 ↔ a.toNat = 0x3FFF := by rw [← BitVec.toNat_inj]; rfl
  rcases m.load16_cases a with ⟨h, lo, hi, -, -, e⟩ | ⟨h, e⟩ | ⟨h, e⟩
  · simp [e, ha]
    omega
  · simp [e, ha, h, eq_comm]
  · have : a.toNat ≠ 0x3FFF := by omega
    simp [e, ha, h, this, eq_comm]

/-- The table of R126 and R127: the operation `i`, issued in the state `s`, raises `f`. -/
def Raises (i : Instr) (s : State) (f : Fault) : Prop :=
  match i with
  | .load a | .store a _ => 0x4000 ≤ a.toNat ∧ f = .invalidAddress a
  | .load16 a => (0x4000 ≤ a.toNat ∧ f = .invalidAddress a) ∨ (a = 0x3FFF#16 ∧ f = .invalidAddress 0x4000#16)
  | .wrData _ => 0x4000 ≤ s.regs.addr.toNat ∧ f = .invalidAddress s.regs.addr
  | .wrOamdata _ => f = .unimplemented .wrOamdata
  | .store16 _ _ => f = .unimplemented .store16
  | _ => False

/-- R126, R127: the effect of an operation is a fault as the table says, and in no other case. -/
theorem effectOf_eq_error_iff {i : Instr} {s : State} {f : Fault} :
    effectOf i s = some (.error f) ↔ Raises i s f := by
  cases i with
  | load a => simp only [effectOf, Raises, Option.some.injEq, except_map_eq_error_iff, Vram.load_eq_error_iff]
  | load16 a => simp only [effectOf, Raises, Option.some.injEq, except_map_eq_error_iff, Vram.load16_eq_error_iff]
  | store a v =>
    simp only [effectOf, storeEffect, Raises, Option.some.injEq, except_map_eq_error_iff, Vram.store_eq_error_iff]
  | wrData v =>
    simp only [effectOf, dataWriteEffect, Raises, Option.some.injEq, except_map_eq_error_iff, Vram.store_eq_error_iff]
  | wrOamdata v | store16 a v => simp [effectOf, Raises, eq_comm]
  | _ => simp [effectOf, Raises]

/-- Settles O46: the table read with the fault `Unimplemented`; the four VRAM accesses raise another kind. -/
theorem onlyTwoOperationsRaiseUnimplemented : Obligations.OnlyTwoOperationsRaiseUnimplemented := by
  unfold Obligations.OnlyTwoOperationsRaiseUnimplemented
  intro i s hs
  rw [exists_comm]
  simp only [exec_faults_iff hs, effectOf_eq_error_iff]
  cases i <;> simp [Raises]

/-- Settles O47: the table read with the fault `InvalidAddress(b)`; what is left is that the address reported is `b`. -/
theorem invalidAddressExactlyWhen : Obligations.InvalidAddressExactlyWhen := by
  unfold Obligations.InvalidAddressExactlyWhen
  intro i s b hs
  rw [exec_faults_iff hs, effectOf_eq_error_iff]
  have hle (a : Word) : 0x4000#16 ≤ a ↔ 0x4000 ≤ a.toNat := Iff.rfl
  cases i with
  | load a | store a v | load16 a | wrData v =>
    simp [Raises, hle]
    grind
  | _ => simp [Raises]

/-! Refusals. -/

/-- R131: a faulted block refuses every operation. -/
theorem exec_faulted {s : State} {f : Fault} (h : s.fault = some f) (i : Instr) : exec i s = .refused .faulted := by
  rcases exec_cases i s with ⟨e, -, he⟩ | ⟨a, rfl⟩
  · rw [he, perform_faulted h]
  · exact whenLive_faulted h _

/-- R131: a faulted block refuses a request that does not decode for the same reason. -/
theorem dispatch_faulted {s : State} {f : Fault} (h : s.fault = some f) (r : Request) :
    dispatch r s = .refused .faulted := by
  rcases hd : decode r with ⟨a⟩ | i
  · rw [dispatch_error hd]
    exact whenLive_faulted h _
  · rw [dispatch_ok hd, exec_faulted h]

/-- R131: a faulted block with something issued refuses the step. -/
theorem step_faulted {s : State} {f : Fault} (h : s.fault = some f) (hp : s.pending ≠ []) :
    step s = .refused .faulted := by
  obtain ⟨r, rest, hr⟩ := List.exists_cons_of_ne_nil hp
  rw [step_cons hr, dispatch_faulted (s := s.withPending rest) h]

/-- Settles O50: a step of a faulted block is idle or refused, so no run moves it. -/
theorem faultedBlockIsTerminal : Obligations.FaultedBlockIsTerminal := by
  unfold Obligations.FaultedBlockIsTerminal
  intro s f hf
  refine ⟨exec_faulted hf, step_faulted hf, fun k t hrun => ?_⟩
  refine runFor_induction (P := fun u => u = s) ?_ rfl hrun
  rintro u t rfl hu
  by_cases hp : u.pending = []
  · rw [step_nil hp] at hu
    cases hu
    rfl
  · rw [step_faulted hf hp] at hu
    cases hu

/-- R119: a live block refuses the bus read. -/
theorem exec_rd_live {s : State} (hs : s.fault = none) (a : Word) : exec (.rd a) s = .refused .noReadPath :=
  whenLive_live hs _

/-- Settles O51: the refusal of a live block. -/
theorem busReadRefused : Obligations.BusReadRefused := by
  unfold Obligations.BusReadRefused
  exact fun s a hs => exec_rd_live hs a

/-- R132: a live block refuses no operation but the bus read. -/
theorem exec_live_ne_refused {i : Instr} {s : State} (hs : s.fault = none) (hi : ∀ a, i ≠ .rd a) (r : Refusal) :
    exec i s ≠ .refused r := by
  rcases exec_cases i s with ⟨e, -, he⟩ | ⟨a, rfl⟩
  · rw [he]
    exact fun h => (perform_refused h).2 hs
  · exact absurd rfl (hi a)

/-- R56: no bus write asks for the bus read. -/
theorem busWriteOp_ne_rd (k : BitVec 3) (v : Byte) (a : Word) : busWriteOp k v ≠ .rd a := by
  rcases offset_cases k with rfl | rfl | rfl | rfl | rfl | rfl | rfl | rfl <;> exact nofun

/-- R56: no operation of the internal port is the bus read. -/
theorem internalInstr_ne_rd (op : InternalOp) (a : Word) : internalInstr op ≠ .rd a := by
  cases op <;> exact nofun

/-- R31: outside the window. -/
theorem inWindow_eq_false_iff (a : Word) : inWindow a = false ↔ a < 0x2000#16 ∨ 0x3FFF#16 < a := by
  rw [← Bool.not_eq_true, inWindow_iff, not_and_or, BitVec.not_le, BitVec.not_le]

/-- R120: a live block refuses a bus write outside the window. -/
theorem step_outOfWindow {s : State} {a : Word} {v : Byte} {rest : List Request} (hs : s.fault = none)
    (hp : s.pending = .busWrite a v :: rest) (ha : inWindow a = false) : step s = .refused .outOfWindow := by
  rw [step_cons hp, dispatch_error (decode_busWrite_outOfWindow ha v)]
  exact whenLive_live (s := s.withPending rest) hs _

/-- R110: in the window, a step performs the operation of the offset. -/
theorem step_inWindow {s : State} {a : Word} {v : Byte} {rest : List Request} (hp : s.pending = .busWrite a v :: rest)
    (ha : inWindow a = true) : step s = exec (busWriteOp (regField a) v) (s.withPending rest) := by
  rw [step_cons hp, dispatch_ok (decode_busWrite_inWindow ha v)]

/-- The host's outcome `fault` does not occur (assumption 6). -/
theorem refuse_ne_fault (s : State) (r : Refusal) (f : Fault) : refuse s r ≠ .fault f := by
  rcases hf : s.fault with _ | g
  · rw [refuse, whenLive_live hf]
    exact nofun
  · rw [refuse, whenLive_faulted hf]
    exact nofun

theorem dispatch_ne_fault (r : Request) (s : State) (f : Fault) : dispatch r s ≠ .fault f := by
  rcases hd : decode r with ⟨a⟩ | i
  · rw [dispatch_error hd]
    exact refuse_ne_fault s _ f
  · rw [dispatch_ok hd]
    rcases exec_cases i s with ⟨e, -, he⟩ | ⟨a, rfl⟩
    · rw [he]
      exact perform_ne_fault s e f
    · exact refuse_ne_fault s _ f

theorem step_ne_fault (s : State) (f : Fault) : step s ≠ .fault f := by
  rcases hp : s.pending with _ | ⟨r, rest⟩
  · rw [step_nil hp]
    exact nofun
  · rw [step_cons hp]
    exact dispatch_ne_fault r _ f

/-- Settles O52: by cases on what is issued, on `fault`, and on the oldest request's format and window. -/
theorem refusalsAreTheClosedList : Obligations.RefusalsAreTheClosedList := by
  unfold Obligations.RefusalsAreTheClosedList
  refine fun s => ⟨fun r => ?_, step_ne_fault s⟩
  rcases hp : s.pending with _ | ⟨q, rest⟩
  · simp [step_nil hp]
  rcases hf : s.fault with _ | f
  · cases q with
    | busRead a =>
      rw [step_cons hp, dispatch_ok rfl, exec_rd_live (s := s.withPending rest) hf]
      simp [eq_comm (b := r)]
    | busWrite a v =>
      rcases hw : inWindow a with _ | _
      · rw [step_outOfWindow hf hp hw]
        simp [(inWindow_eq_false_iff a).mp hw, eq_comm (b := r)]
      · have hin : ¬ (a < 0x2000#16 ∨ 0x3FFF#16 < a) := by simp [← inWindow_eq_false_iff, hw]
        rw [step_inWindow hp hw]
        simp [exec_live_ne_refused (s := s.withPending rest) hf (busWriteOp_ne_rd _ v), hin]
    | internal op =>
      rw [step_cons hp, dispatch_ok rfl]
      simp [exec_live_ne_refused (s := s.withPending rest) hf (internalInstr_ne_rd op)]
  · rw [step_faulted hf (by simp [hp])]
    simp [eq_comm (b := r)]

end Sys2Proof.Machine
end

section
/-! PROOFS. The step (spec/20_memory.md R42, 43_dispatcher.md R110): it performs the oldest issued operation in the state in
which that operation is no longer pending, and sees nothing of the later ones. -/

namespace Sys2Proof.Machine

/-- R42: the step of an oldest request that decodes. -/
theorem step_of_decode {s : State} {r : Request} {rest : List Request} {i : Instr} (hp : s.pending = r :: rest)
    (h : decode r = .ok i) : step s = exec i (s.withPending rest) := by
  rw [step_cons hp, dispatch_ok h]

/-- Settles O4: the step of a request that decodes, and the idle step. -/
theorem stepPerformsOldestOperation : Obligations.StepPerformsOldestOperation := by
  unfold Obligations.StepPerformsOldestOperation
  exact ⟨fun s r rest i hp h => step_of_decode hp h, fun s hp => step_nil hp⟩

/-- The operation of a table word is what its request decodes to. -/
theorem decode_tableRequest {nbits w : Nat} {i : Instr} (h : decodeTableWord nbits w = some i) :
    decode (tableRequest nbits w) = .ok i := by
  unfold decodeTableWord at h
  split at h
  · rcases hd : decode (tableRequest nbits w) with e | j
    · rw [hd] at h
      cases h
    · rw [hd] at h
      cases h
      rfl
  · cases h

/-- Settles O5: the word's request stands first in `withFetchWord`, and the state without it is the state of before. -/
theorem fetchWordRunsDecodedOperation : Obligations.FetchWordRunsDecodedOperation := by
  unfold Obligations.FetchWordRunsDecodedOperation
  intro s nbits w i h
  exact step_of_decode (s := s.withFetchWord nbits w) rfl (decode_tableRequest h)

/-- R110: in the window, a step performs the operation of the offset `a & 7`. -/
theorem step_of_offset {s : State} {a k : Word} {v : Byte} {rest : List Request} (hp : s.pending = .busWrite a v :: rest)
    (ha : inWindow a = true) (hk : k &&& 7#16 = k) (h : a &&& 7#16 = k) :
    step s = exec (busWriteOp (regField k) v) (s.withPending rest) := by
  rw [step_inWindow hp ha, (regField_eq_iff a k).mpr (h.trans hk.symm)]

/-- Settles O6: the three cases of R110, in its order. -/
theorem busWriteDispatch : Obligations.BusWriteDispatch := by
  unfold Obligations.BusWriteDispatch
  intro s a v rest hp
  refine ⟨fun hf => ?_, fun hf ha => ?_, fun hf ha₁ ha₂ => ?_⟩
  · obtain ⟨f, hf⟩ := Option.ne_none_iff_exists'.mp hf
    exact step_faulted hf (by simp [hp])
  · exact step_outOfWindow hf hp ((inWindow_eq_false_iff a).mpr ha)
  · have hin : inWindow a = true := (inWindow_iff a).mpr ⟨ha₁, ha₂⟩
    refine ⟨?_, ?_, ?_, ?_, ?_, ?_, ?_, ?_⟩ <;> exact step_of_offset hp hin (by decide)

/-- R157: the address `0x2004 + 8 * j` is the mirror `j` of offset 4. -/
theorem oamDataAlias_eq_busAddress {j : Nat} (hj : j < 1024) :
    BitVec.ofNat 16 (0x2004 + 8 * j) = busAddress (BitVec.ofNat 10 j) 4 := by
  rw [← BitVec.toNat_inj, busAddress_toNat]
  simp
  omega

/-- Settles O53: at every mirror the step performs `WR.OAMDATA`, whose effect is the fault; what it leaves is terminal. -/
theorem oamDataAliasesAreFatal : Obligations.OamDataAliasesAreFatal := by
  unfold Obligations.OamDataAliasesAreFatal
  intro s j v rest hj hs hp
  rw [oamDataAlias_eq_busAddress hj] at hp
  have hstep : step s = exec (.wrOamdata v) (s.withPending rest) := step_of_decode hp (decode_busAddress _ 4 v)
  rw [exec_of_effectOf_error (s := s.withPending rest) (f := .unimplemented .wrOamdata) hs rfl] at hstep
  exact ⟨_, .wrOamdata, hstep, rfl, rfl, rfl, exec_faulted rfl⟩

/-! Changes of the state that an operation does not see. -/

/-- An outcome whose next state is changed by `g`. -/
def mapNext (g : State → State) (o : Host.Outcome State Fault Refusal) : Host.Outcome State Fault Refusal :=
  match o with
  | .next t => .next (g t)
  | .fault f => .fault f
  | .refused r => .refused r

/-- An effect whose state is changed by `g`. -/
def Effect.mapState (g : State → State) (e : Effect) : Effect := e.map fun p => (g p.1, p.2)

/-- The effect of a VRAM access changes state as the access's result is used. -/
theorem Effect.mapState_map {α : Type} (g : State → State) (x : Except Fault α) (p : α → State × Reply) :
    Effect.mapState g (x.map p) = x.map fun a => (g (p a).1, (p a).2) := by
  cases x <;> rfl

/-- A change of the state that touches neither `fault` nor the report, so that reports and fault entry commute with it. -/
structure Unseen (g : State → State) : Prop where
  fault (s : State) : (g s).fault = s.fault
  withReply (s : State) (r : Reply) : (g s).withReply r = g (s.withReply r)
  takeFault (s : State) (f : Fault) : (g s).takeFault f = g (s.takeFault f)

theorem whenLive_unseen {g : State → State} (hg : Unseen g) (s : State) (o : Host.Outcome State Fault Refusal) :
    whenLive (g s) (mapNext g o) = mapNext g (whenLive s o) := by
  rcases hs : s.fault with _ | f
  · rw [whenLive_live hs, whenLive_live ((hg.fault s).trans hs)]
  · rw [whenLive_faulted hs, whenLive_faulted ((hg.fault s).trans hs)]
    rfl

theorem perform_unseen {g : State → State} (hg : Unseen g) (s : State) (e : Effect) :
    perform (g s) (e.mapState g) = mapNext g (perform s e) := by
  simp only [perform, ← whenLive_unseen hg]
  rcases e with f | ⟨u, r⟩
  · exact congrArg _ (congrArg _ (hg.takeFault s f))
  · exact congrArg _ (congrArg _ (hg.withReply u r))

/-- An operation whose effect does not depend on the change does the same before it and after it. -/
theorem exec_unseen {g : State → State} (hg : Unseen g) {i : Instr} {s : State}
    (h : effectOf i (g s) = (effectOf i s).map (Effect.mapState g)) : exec i (g s) = mapNext g (exec i s) := by
  rcases exec_cases i s with ⟨e, he, hp⟩ | ⟨a, rfl⟩
  · rw [he] at h
    rw [hp, exec_eq_perform h, perform_unseen hg]
  · exact whenLive_unseen hg s (.refused .noReadPath)

/-- R42: the state with the requests `later` issued after those it holds. -/
def State.issueLater (later : List Request) (s : State) : State := { s with pending := s.pending ++ later }

theorem unseen_issueLater (later : List Request) : Unseen (State.issueLater later) where
  fault _ := rfl
  withReply _ _ := rfl
  takeFault _ _ := rfl

/-- R42(b): no effect depends on what is issued. -/
theorem effectOf_issueLater (i : Instr) (s : State) (later : List Request) :
    effectOf i (s.issueLater later) = (effectOf i s).map (Effect.mapState (State.issueLater later)) := by
  cases i with
  | load a | load16 a | store a v | wrData v =>
    simp only [effectOf, storeEffect, dataWriteEffect, Option.map_some, Effect.mapState_map]
    rfl
  | _ => rfl

theorem dispatch_issueLater (r : Request) (s : State) (later : List Request) :
    dispatch r (s.issueLater later) = mapNext (State.issueLater later) (dispatch r s) := by
  rcases hd : decode r with ⟨a⟩ | i
  · rw [dispatch_error hd, dispatch_error hd]
    exact whenLive_unseen (unseen_issueLater later) s (.refused .outOfWindow)
  · rw [dispatch_ok hd, dispatch_ok hd]
    exact exec_unseen (unseen_issueLater later) (effectOf_issueLater i s later)

/-- Settles O12: taking the oldest request leaves the later ones at the end, where dispatch does not see them. -/
theorem laterOperationsDoNotInfluence : Obligations.LaterOperationsDoNotInfluence := by
  unfold Obligations.LaterOperationsDoNotInfluence
  intro s later hp
  obtain ⟨r, rest, hr⟩ := List.exists_cons_of_ne_nil hp
  have hlater : step { s with pending := s.pending ++ later } = mapNext (State.issueLater later) (step s) := by
    rw [step_cons hr, ← dispatch_issueLater]
    exact step_cons (by simp [hr])
  rw [hlater]
  exact ⟨fun t h => by rw [h]; rfl, fun q h => by rw [h]; rfl⟩

/-! R71: control bit 6. -/

/-- The state with bit 6 of `ctrl` flipped. -/
def State.flipCtrlBit6 (s : State) : State := { s with regs := { s.regs with ctrl := s.regs.ctrl ^^^ 0x40#8 } }

theorem unseen_flipCtrlBit6 : Unseen State.flipCtrlBit6 where
  fault _ := rfl
  withReply _ _ := rfl
  takeFault _ _ := rfl

/-- R71: a bit of `ctrl` other than bit 6 does not see the flip. -/
theorem bitOf_flipBit6 (c : Byte) {k : Nat} (hk : k < 8 ∧ k ≠ 6) : bitOf (c ^^^ 0x40#8) k = bitOf c k := by
  obtain ⟨h8, h6⟩ := hk
  interval_cases k <;> simp [bitOf] at h6 ⊢

/-- R65, R71: nor does the nametable field, bits 1:0. -/
theorem baseNametableAddrOf_flipBit6 (c : Byte) : baseNametableAddrOf (c ^^^ 0x40#8) = baseNametableAddrOf c := by
  have h : (c ^^^ 0x40#8).extractLsb' 0 2 = c.extractLsb' 0 2 := by
    apply BitVec.eq_of_getLsbD_eq
    intro k hk
    interval_cases k <;> simp
  rw [baseNametableAddrOf, h, baseNametableAddrOf]

theorem vramAddrIncrementOf_flipBit6 (c : Byte) : vramAddrIncrementOf (c ^^^ 0x40#8) = vramAddrIncrementOf c := by
  rw [vramAddrIncrementOf, bitOf_flipBit6 c (by decide), vramAddrIncrementOf]

/-- R71: no effect but that of a write of `ctrl` depends on bit 6; the fields of the accessors and the advance of the data
write are made of other bits. -/
theorem effectOf_flipCtrlBit6 {i : Instr} (hi : i.writesCtrl = false) (s : State) :
    effectOf i s.flipCtrlBit6 = (effectOf i s).map (Effect.mapState State.flipCtrlBit6) := by
  cases i with
  | wrCtrl _ | setCtrl _ => cases hi
  | baseNametableAddr =>
    simp only [effectOf, State.flipCtrlBit6, baseNametableAddrOf_flipBit6]
    rfl
  | vramAddrIncrement =>
    simp only [effectOf, State.flipCtrlBit6, vramAddrIncrementOf_flipBit6]
    rfl
  | spritePatternTableAddr | backgroundPatternTableAddr | spriteSize | vblankNmiEnabled =>
    simp (disch := decide) only [effectOf, State.flipCtrlBit6, spritePatternTableAddrOf, backgroundPatternTableAddrOf,
      spriteSizeOf, vblankNmiEnabledOf, bitOf_flipBit6]
    rfl
  | load a | load16 a | store a v =>
    simp only [effectOf, storeEffect, Option.map_some, Effect.mapState_map]
    rfl
  | wrData v =>
    simp only [effectOf, dataWriteEffect, Option.map_some, Effect.mapState_map, Regs.advance, State.flipCtrlBit6,
      vramAddrIncrementOf_flipBit6]
    rfl
  | _ => rfl

/-- Settles O17: the flip is a change that no effect but a write of `ctrl` sees. -/
theorem controlBit6HasNoEffect : Obligations.ControlBit6HasNoEffect := by
  unfold Obligations.ControlBit6HasNoEffect
  intro i s hi
  have hflip : exec i s.flipCtrlBit6 = mapNext State.flipCtrlBit6 (exec i s) :=
    exec_unseen unseen_flipCtrlBit6 (effectOf_flipCtrlBit6 hi s)
  exact ⟨fun t h => hflip.trans (by rw [h]; rfl), fun r h => hflip.trans (by rw [h]; rfl)⟩

end Sys2Proof.Machine
end

section
/-! PROOFS. The accessors and mutators one by one (spec/40_regbank_decode.md, 41_regbank_mutators.md), and the power-on state
(10_state.md R26). -/

namespace Sys2Proof.Machine

/-! The accessors. -/

/-- R69 as arithmetic on the byte. -/
theorem spriteSizeOf_eq_ite (c : Byte) :
    spriteSizeOf c = if c.toNat / 32 % 2 = 1 then SpriteSize.size8x16 else SpriteSize.size8x8 := by
  simp [spriteSizeOf, bitOf_eq_decide]

/-- Settles O16: the accessor reports `spriteSizeOf`, which is the rule's formula. -/
theorem spriteSizeResult : Obligations.SpriteSizeResult := by
  unfold Obligations.SpriteSizeResult
  intro s hs
  rw [← spriteSizeOf_eq_ite]
  exact exec_of_effectOf_value hs rfl

/-- Settles O18: each accessor reports its bit of `mask`. -/
theorem maskFlagResults : Obligations.MaskFlagResults := by
  unfold Obligations.MaskFlagResults
  intro s hs
  simp only [← bitOf_eq_decide]
  refine ⟨?_, ?_, ?_, ?_, ?_, ?_, ?_, ?_⟩ <;> exact exec_of_effectOf_value hs rfl

/-! The status mutators. -/

/-- Settles O21: the effect of each mutator is `status` with its bit set or cleared. -/
theorem statusMutatorResults : Obligations.StatusMutatorResults := by
  unfold Obligations.StatusMutatorResults
  intro s on hs
  exact ⟨exec_of_effectOf_withRegs (r := s.regs.setSpriteOverflow on) hs rfl,
    exec_of_effectOf_withRegs (r := s.regs.setSpriteZeroHit on) hs rfl,
    exec_of_effectOf_withRegs (r := s.regs.setInVblank on) hs rfl⟩

/-- R93: the bits of a status byte in which bit `j` has been set or cleared. -/
theorem getLsbD_setOrClear_twoPow (b : Byte) (on : Bool) {j k : Nat} (hk : k < 8) :
    (setOrClear b (BitVec.twoPow 8 j) on).getLsbD k = if k = j then on else b.getLsbD k := by
  cases on <;> by_cases h : k = j <;> simp [setOrClear, hk, h]; omega

/-- Settles O22: each mutator sets or clears a power of two. -/
theorem statusMutatorsChangeOneBit : Obligations.StatusMutatorsChangeOneBit := by
  unfold Obligations.StatusMutatorsChangeOneBit
  intro s on k hs hk
  obtain ⟨hoverflow, hzeroHit, hvblank⟩ := statusMutatorResults s on hs
  exact ⟨⟨_, hoverflow, getLsbD_setOrClear_twoPow s.regs.status on (j := 5) hk⟩,
    ⟨_, hzeroHit, getLsbD_setOrClear_twoPow s.regs.status on (j := 6) hk⟩,
    ⟨_, hvblank, getLsbD_setOrClear_twoPow s.regs.status on (j := 7) hk⟩⟩

/-- R13: setting or clearing bits above bit 4 keeps bits 4:0. -/
theorem setOrClear_and_1F (b : Byte) {m : Byte} (hm : m &&& 0x1F#8 = 0#8) (on : Bool) :
    setOrClear b m on &&& 0x1F#8 = b &&& 0x1F#8 := by
  apply BitVec.eq_of_getLsbD_eq
  intro k hk
  have hbit : (m.getLsbD k && (0x1F#8).getLsbD k) = false := by
    rw [← BitVec.getLsbD_and, hm, BitVec.getLsbD_zero]
  cases on <;> simp [setOrClear] <;> grind

/-- R13: no operation leaves other bits 4:0 of `status`. -/
theorem regsAfter_status_and_1F (i : Instr) (r : Regs) : (regsAfter i r).status &&& 0x1F#8 = r.status &&& 0x1F#8 := by
  cases i with
  | setSpriteOverflow on | setSpriteZeroHit on | setInVblank on => exact setOrClear_and_1F r.status (by decide) on
  | _ => rfl

/-- R13: the operations that write `status`. -/
theorem writesStatus_cases {i : Instr} (h : i.writesStatus = true) :
    ∃ on, i = .setSpriteOverflow on ∨ i = .setSpriteZeroHit on ∨ i = .setInVblank on := by
  cases i with
  | setSpriteOverflow on | setSpriteZeroHit on | setInVblank on => exact ⟨on, by simp⟩
  | _ => cases h

/-- R54: a request that writes `status` names one of the three mutators. -/
theorem decode_writesStatus {q : Request} {i : Instr} (hd : decode q = .ok i) (hi : i.writesStatus = true) :
    ∃ on, q = .internal (.setSpriteOverflow on) ∨ q = .internal (.setSpriteZeroHit on) ∨
      q = .internal (.setInVblank on) := by
  obtain ⟨on, h⟩ := writesStatus_cases hi
  obtain ⟨x, rfl⟩ := decodedRequestIsAnEncoding q i hd
  exact ⟨on, h.imp (by rintro rfl; rfl) (Or.imp (by rintro rfl; rfl) (by rintro rfl; rfl))⟩

/-- Settles O23: a step is idle or performs an operation, and an operation other than the mutators leaves `status`. -/
theorem statusLowBitsHeldByEveryStep : Obligations.StatusLowBitsHeldByEveryStep := by
  unfold Obligations.StatusLowBitsHeldByEveryStep
  intro s t h
  obtain ⟨-, rfl⟩ | ⟨q, rest, i, hp, hd, he⟩ := step_next h
  · exact ⟨rfl, .inl rfl⟩
  · refine ⟨exec_regs_part (s := s.withPending rest) (p := fun r => r.status &&& 0x1F#8) (regsAfter_status_and_1F i _) he, ?_⟩
    rcases hi : i.writesStatus with _ | _
    · exact .inl (exec_status (s := s.withPending rest) hi he)
    · obtain ⟨on, hq⟩ := decode_writesStatus hd hi
      refine .inr ⟨rest, on, ?_⟩
      rw [hp]
      rcases hq with rfl | rfl | rfl <;> simp

/-! The two latches. -/

/-- R39(b): the byte shifted in becomes the low byte, and the old low byte the high one. -/
theorem shiftIn_eq_append (w : Word) (v : Byte) : shiftIn w v = w.extractLsb' 0 8 ++ v := by
  have h : w.toNat <<< 8 % 2 ^ 16 = (w.toNat % 2 ^ 8) <<< 8 := by
    rw [Nat.shiftLeft_eq, Nat.shiftLeft_eq]
    omega
  apply BitVec.eq_of_toNat_eq
  simp only [shiftIn, BitVec.toNat_append, BitVec.toNat_or, BitVec.toNat_shiftLeft, h, BitVec.toNat_setWidth,
    BitVec.extractLsb'_toNat, Nat.shiftRight_zero, Nat.mod_eq_of_lt (v.isLt.trans (by decide : 2 ^ 8 < 2 ^ 16))]

/-- Settles O24: the effect of both operations is the latch filled by the toggle. -/
theorem scrollWriteFillsByToggle : Obligations.ScrollWriteFillsByToggle := by
  unfold Obligations.ScrollWriteFillsByToggle
  intro s v hs
  have hfill : exec (.scrollWrite v) s = .next { s with regs := s.regs.scrollWrite v, reply := some .done } ∧
      exec (.wrScroll v) s = .next { s with regs := s.regs.scrollWrite v, reply := some .done } :=
    ⟨exec_of_effectOf_withRegs hs rfl, exec_of_effectOf_withRegs hs rfl⟩
  refine ⟨fun h => ?_, fun h => ?_⟩ <;> simpa only [Regs.scrollWrite, Scroll.fill, h] using hfill

/-- Settles O25: the effect of both operations is the cursor with the byte shifted in. -/
theorem addrWriteShiftsByteIn : Obligations.AddrWriteShiftsByteIn := by
  unfold Obligations.AddrWriteShiftsByteIn
  intro s v hs
  rw [← shiftIn_eq_append]
  exact ⟨exec_of_effectOf_withRegs (r := s.regs.addrWrite v) hs rfl,
    exec_of_effectOf_withRegs (r := s.regs.addrWrite v) hs rfl⟩

/-! Power-on. -/

/-- R26: an unwritten buffer reads zero. -/
theorem reset_load_zero {a : Word} (h : 0x2000 ≤ a.toNat) (h' : a.toNat ≤ 0x3FFF) :
    State.reset.vram.load a = .ok 0x00#8 := by
  rcases resolve_cases a with ⟨hr, -⟩ | ⟨-, -, e⟩ | ⟨-, -, e⟩ | ⟨hr, -⟩
  · omega
  · exact Vram.load_of_resolve e
  · exact Vram.load_of_resolve e
  · omega

/-- Settles O1: the registers are the reset values; a load reads an empty buffer, or the cartridge. -/
theorem powerOnState : Obligations.PowerOnState := by
  unfold Obligations.PowerOnState
  exact ⟨rfl, fun a h h' => reset_load_zero h h', fun a h => Vram.load_of_resolve (resolve_pattern h), rfl, rfl, rfl⟩

/-- Settles O2: empty buffers are canonical, and nothing has faulted. -/
theorem invariantAtPowerOn : Obligations.InvariantAtPowerOn := by
  unfold Obligations.InvariantAtPowerOn
  exact ⟨⟨Memory.wf_nil 4096, Memory.wf_nil 32⟩, nofun⟩

/-- Settles O3: each accessor's effect, evaluated at the reset state. -/
theorem powerOnDecodedOutputs : Obligations.PowerOnDecodedOutputs := by
  unfold Obligations.PowerOnDecodedOutputs
  refine ⟨?_, ?_, ?_, ?_, ?_, ?_, fun i hi => ?mask⟩
  case mask =>
    cases i with
    | grayscale | showBackgroundLeft | showSpritesLeft | showBackground | showSprites | intensifyRed | intensifyGreen
    | intensifyBlue => exact exec_of_effectOf_value rfl rfl
    | _ => cases hi
  all_goals exact exec_of_effectOf_value rfl rfl

end Sys2Proof.Machine
end

section
/-! PROOFS. Steps and runs (spec/70_reset_and_hazards.md R163): the invariant of the state, the runs of requests from the
CPU-bus port, the scroll toggle over a run, and the runs of total operations. -/

namespace Sys2Proof.Machine

/-! The invariant. -/

/-- R18, R19: an operation leaves canonical buffers. -/
theorem vramAfter_wf {i : Instr} {s : State} {m : Vram} (hs : s.vram.wf) (h : vramAfter i s = .ok m) : m.wf := by
  by_cases hi : i.writesVram = false
  · rw [vramAfter_eq hi] at h
    cases h
    exact hs
  · cases i with
    | store a v | wrData v => exact Vram.store_wf hs h
    | _ => exact absurd rfl hi

/-- Settles O58: an operation starts on a live block; its effect keeps the buffers canonical and the block live, and its fault
is the one reported. -/
theorem invariantKeptByEveryStep : Obligations.InvariantKeptByEveryStep := by
  unfold Obligations.InvariantKeptByEveryStep
  rintro s t ⟨hwf, hreport⟩ h
  obtain ⟨-, rfl⟩ | ⟨q, rest, i, -, -, he⟩ := step_next h
  · exact ⟨hwf, hreport⟩
  · obtain ⟨hlive, ⟨m, u, r, -, hm, rfl, rfl⟩ | ⟨f, -, rfl⟩⟩ := exec_next_cases he
    · exact ⟨vramAfter_wf (s := s.withPending rest) hwf hm, fun f hf => nomatch hlive.symm.trans hf⟩
    · exact ⟨hwf, fun g hg => by cases hg; rfl⟩

/-! Runs of requests from the CPU-bus port. -/

/-- R134: no operation of the CPU-bus port writes `status`. -/
theorem writesStatus_of_fromCpuBus {q : Request} {i : Instr} (hq : fromCpuBus q = true) (hd : decode q = .ok i) :
    i.writesStatus = false := by
  cases hi : i.writesStatus with
  | false => rfl
  | true =>
    obtain ⟨on, rfl | rfl | rfl⟩ := decode_writesStatus hd hi <;> cases hq

/-- Only requests of the CPU-bus port are issued, and `status` holds the byte `b`. -/
def CpuBusOnly (b : Byte) (s : State) : Prop := (∀ q ∈ s.pending, fromCpuBus q = true) ∧ s.regs.status = b

theorem cpuBusOnly_step {b : Byte} {s t : State} (hs : CpuBusOnly b s) (h : step s = .next t) : CpuBusOnly b t := by
  obtain ⟨hbus, hstatus⟩ := hs
  obtain ⟨-, rfl⟩ | ⟨q, rest, i, hp, hd, he⟩ := step_next h
  · exact ⟨hbus, hstatus⟩
  · rw [hp] at hbus
    have hi : i.writesStatus = false := writesStatus_of_fromCpuBus (hbus q (by simp)) hd
    refine ⟨?_, (exec_status hi he).trans hstatus⟩
    rw [exec_pending he]
    exact fun r hr => hbus r (List.mem_cons_of_mem q hr)

/-- Settles O56: by induction over the run; what is issued stays from the CPU-bus port and `status` stays as it is. -/
theorem cpuBusCannotChangeStatus : Obligations.CpuBusCannotChangeStatus := by
  unfold Obligations.CpuBusCannotChangeStatus
  intro k s t hs hrun
  have hend : CpuBusOnly s.regs.status t :=
    runFor_induction (fun u w hu hw => cpuBusOnly_step hu hw) ⟨hs, rfl⟩ hrun
  exact hend.2

/-! The run of all that is issued. -/

/-- R163: the run of an empty list is over. -/
theorem runEnds_nil {s t : State} (hp : s.pending = []) : RunEnds s t ↔ s = t := by
  simp [RunEnds, hp]

/-- R163: the run of a list begins with the step of its first request, which leaves the others issued. -/
theorem runEnds_cons {s t : State} {q : Request} {rest : List Request} (hp : s.pending = q :: rest) (h : RunEnds s t) :
    ∃ i u, decode q = .ok i ∧ exec i (s.withPending rest) = .next u ∧ u.pending = rest ∧ RunEnds u t := by
  unfold RunEnds at h
  rw [hp] at h
  obtain ⟨u, hu, hrun⟩ := runFor_succ h
  rw [step_cons hp] at hu
  rcases hd : decode q with e | i
  · rw [dispatch_error hd] at hu
    exact absurd hu (refuseRequest_ne_next _ _ _)
  · rw [dispatch_ok hd] at hu
    have hpu : u.pending = rest := exec_pending hu
    refine ⟨i, u, rfl, hu, hpu, ?_⟩
    rw [RunEnds, hpu]
    exact hrun

/-! R16: the scroll toggle. -/

/-- R91: a scroll write flips the toggle. -/
theorem Scroll.fill_next_ne (sc : Scroll) (v : Byte) : (sc.fill v).next ≠ sc.next := by
  rcases h : sc.next with _ | _ <;> simp [Scroll.fill, h]

/-- R91: a performed scroll write leaves the other value of the toggle; it has no fault. -/
theorem exec_scroll_next_ne {i : Instr} {s t : State} (hi : i.writesScroll = true) (h : exec i s = .next t) :
    t.regs.scroll.next ≠ s.regs.scroll.next := by
  obtain ⟨-, ⟨m, u, r, -, -, rfl, rfl⟩ | ⟨f, hf, -⟩⟩ := exec_next_cases h
  · cases i with
    | wrScroll v | scrollWrite v => exact s.regs.scroll.fill_next_ne v
    | _ => cases hi
  · cases i with
    | wrScroll v | scrollWrite v => cases hf
    | _ => cases hi

/-- R15: the toggle has two values. -/
theorem ScrollDir.eq_iff_ne {c d e : ScrollDir} (h : d ≠ e) : c = d ↔ c ≠ e := by
  cases c <;> cases d <;> cases e <;> simp at h ⊢

/-- R16: over a run the toggle keeps its value exactly when the number of scroll writes is even. -/
theorem toggle_eq_iff_even {ops : List Request} {s t : State} (hp : s.pending = ops) (h : RunEnds s t) :
    t.regs.scroll.next = s.regs.scroll.next ↔ ops.countP isScrollWrite % 2 = 0 := by
  induction ops generalizing s with
  | nil =>
    cases (runEnds_nil hp).mp h
    simp
  | cons q rest ih =>
    obtain ⟨i, u, hd, he, hpu, hrun⟩ := runEnds_cons hp h
    have hq : isScrollWrite q = i.writesScroll := by rw [isScrollWrite, hd]
    specialize ih hpu hrun
    rcases hi : i.writesScroll with _ | _
    · have hu : u.regs.scroll = s.regs.scroll := exec_scroll (s := s.withPending rest) hi he
      rw [List.countP_cons_of_neg (by simp [hq, hi]), ← hu, ih]
    · have hu : u.regs.scroll.next ≠ s.regs.scroll.next := exec_scroll_next_ne (s := s.withPending rest) hi he
      rw [List.countP_cons_of_pos (by simp [hq, hi]), ScrollDir.eq_iff_ne hu.symm, ne_eq, ih]
      omega

/-- Settles O57: power-on is one of the states that the parity lemma speaks of. -/
theorem toggleFollowsScrollParity : Obligations.ToggleFollowsScrollParity := by
  unfold Obligations.ToggleFollowsScrollParity
  exact ⟨rfl, fun s t h => toggle_eq_iff_even rfl h,
    fun ops t h => toggle_eq_iff_even (s := { State.reset with pending := ops }) rfl h⟩

/-! Runs of total operations. -/

/-- R128: an operation that completes whatever the cursor holds does not fault. -/
theorem exec_completes_of_alwaysCompletes {i : Instr} {s : State} (hi : i.alwaysCompletes = true) (hs : s.fault = none) :
    ∃ t, exec i s = .next t ∧ t.fault = none := by
  refine totalOperationsNeverFault i s hs ?_
  cases i with
  | wrOamdata _ | wrData _ | rd _ | store16 _ _ => cases hi
  | load a | store a v | load16 a => exact of_decide_eq_true hi
  | _ => trivial

/-- R163: a run goes on after a step that performs an operation. -/
theorem successfulRun_cons {s t u : State} {q : Request} {rest : List Request} {i : Instr} (hp : s.pending = q :: rest)
    (hd : decode q = .ok i) (he : exec i (s.withPending rest) = .next u) (h : SuccessfulRun u t) : SuccessfulRun s t := by
  have hpu : u.pending = rest := exec_pending he
  obtain ⟨hrun, hlive⟩ := h
  rw [RunEnds, hpu] at hrun
  refine ⟨?_, hlive⟩
  rw [RunEnds, hp, List.length_cons, runFor_succ_next ((step_of_decode hp hd).trans he)]
  exact hrun

/-- R163: from a live state, a list of total operations runs to its end. -/
theorem run_of_total_operations {ops : List Request} {s : State} (hp : s.pending = ops) (hs : s.fault = none)
    (h : ∀ q ∈ ops, ∃ i, decode q = .ok i ∧ i.alwaysCompletes = true) : ∃ t, SuccessfulRun s t ∧ t.pending = [] := by
  induction ops generalizing s with
  | nil => exact ⟨s, ⟨(runEnds_nil hp).mpr rfl, hs⟩, hp⟩
  | cons q rest ih =>
    obtain ⟨i, hd, hi⟩ := h q (by simp)
    obtain ⟨u, he, hu⟩ := exec_completes_of_alwaysCompletes (s := s.withPending rest) hi hs
    obtain ⟨t, ht, hpt⟩ := ih (exec_pending he) hu fun r hr => h r (List.mem_cons_of_mem q hr)
    exact ⟨t, successfulRun_cons hp hd he ht, hpt⟩

/-- Settles O59: the run lemma at the list that is issued. -/
theorem totalOperationsRunToSuccess : Obligations.TotalOperationsRunToSuccess := by
  unfold Obligations.TotalOperationsRunToSuccess
  exact fun s hs h => run_of_total_operations rfl hs h

end Sys2Proof.Machine
end

section
/-! PROOFS. The VRAM operations (spec/42_addressspace.md, 20_memory.md section 6). A load reads the cell its address resolves
to and a store writes it; so what two operations have to do with each other is whether their addresses resolve to one cell. -/

namespace Sys2Proof.Machine

/-! What `load`, `store` and `load16` come to on a live block. -/

theorem exec_load_of_resolve {s : State} {a : Word} {c : CellRef} (hs : s.fault = none) (h : resolve a = some c) :
    exec (.load a) s = .next { s with reply := some (.value (.byte (s.vram.readCell c))) } :=
  exec_of_effectOf_value hs (effectOf_load_ok (Vram.load_of_resolve h))

theorem exec_store_of_resolve {s : State} {a : Word} {c : CellRef} (hs : s.fault = none) (h : resolve a = some c)
    (v : Byte) : exec (.store a v) s = .next { s with vram := s.vram.writeCell c v, reply := some .done } :=
  (exec_eq_perform (effectOf_store_ok (Vram.store_of_resolve h v))).trans (perform_ok hs _ .done)

/-- R39(a): the byte at the lower address is the low byte. -/
theorem littleEndian_eq_append (lo hi : Byte) : littleEndian lo hi = hi ++ lo := by
  have h : hi.toNat <<< 8 % 2 ^ 16 = hi.toNat <<< 8 := by
    have := hi.isLt
    rw [Nat.shiftLeft_eq]
    omega
  apply BitVec.eq_of_toNat_eq
  simp only [littleEndian, BitVec.toNat_append, BitVec.toNat_or, BitVec.toNat_shiftLeft, BitVec.toNat_setWidth,
    Nat.mod_eq_of_lt (lo.isLt.trans (by decide : 2 ^ 8 < 2 ^ 16)),
    Nat.mod_eq_of_lt (hi.isLt.trans (by decide : 2 ^ 8 < 2 ^ 16)), h]
  exact Nat.or_comm _ _

theorem exec_load16_of_load {s : State} {a : Word} {lo hi : Byte} (hs : s.fault = none) (hlo : s.vram.load a = .ok lo)
    (hhi : s.vram.load (a + 1) = .ok hi) :
    exec (.load16 a) s = .next { s with reply := some (.value (.word (hi ++ lo))) } := by
  refine exec_of_effectOf_value hs (effectOf_load16_ok ?_)
  simp only [Vram.load16, hlo, hhi, littleEndian_eq_append]

/-- R102: the word at an address is made of the cells that it and the next address resolve to. -/
theorem exec_load16_of_resolve {s : State} {a : Word} {c d : CellRef} (hs : s.fault = none) (hc : resolve a = some c)
    (hd : resolve (a + 1) = some d) :
    exec (.load16 a) s = .next { s with reply := some (.value (.word (s.vram.readCell d ++ s.vram.readCell c))) } :=
  exec_load16_of_load hs (Vram.load_of_resolve hc) (Vram.load_of_resolve hd)

/-- Settles O28: the cell that an address of each range resolves to, or the fault. -/
theorem loadResult : Obligations.LoadResult := by
  unfold Obligations.LoadResult
  intro s a hs
  refine ⟨fun h => exec_load_of_resolve hs (resolve_pattern h), fun h h' => ?_, fun h h' => ?_,
    fun h => exec_of_effectOf_error hs (effectOf_eq_error_iff.mpr ⟨h, rfl⟩)⟩
  · rw [← setWidth12_toNat]
    exact exec_load_of_resolve hs (resolve_nametable h h')
  · rw [← setWidth5_toNat]
    exact exec_load_of_resolve hs (resolve_palette h h')

/-- Settles O29: as for a load. A pattern cell takes no byte (R33). -/
theorem storeResult : Obligations.StoreResult := by
  unfold Obligations.StoreResult
  intro s a v hs
  refine ⟨fun h => exec_store_of_resolve hs (resolve_pattern h) v, fun h h' => ?_, fun h h' => ?_,
    fun h => exec_of_effectOf_error hs (effectOf_eq_error_iff.mpr ⟨h, rfl⟩)⟩
  · rw [← setWidth12_toNat]
    exact exec_store_of_resolve hs (resolve_nametable h h') v
  · rw [← setWidth5_toNat]
    exact exec_store_of_resolve hs (resolve_palette h h') v

/-- Settles O30: both byte loads answer up to `0x3FFE`; the first that does not is the one reported. -/
theorem load16Result : Obligations.Load16Result := by
  unfold Obligations.Load16Result
  intro s a hs
  refine ⟨fun h => ?_, fun h => exec_of_effectOf_error hs (effectOf_eq_error_iff.mpr (.inr ⟨h, rfl⟩)),
    fun h => exec_of_effectOf_error hs (effectOf_eq_error_iff.mpr (.inl ⟨h, rfl⟩))⟩
  have ha : a.toNat ≤ 0x3FFE := h
  rcases s.vram.load16_cases a with ⟨-, lo, hi, hlo, hhi, -⟩ | ⟨h', -⟩ | ⟨h', -⟩
  · exact ⟨lo, hi, hlo, hhi, exec_load16_of_load hs hlo hhi⟩
  · omega
  · omega

/-- Settles O31: each base and the address after it resolve to the two cells named. -/
theorem load16AcrossBoundaries : Obligations.Load16AcrossBoundaries := by
  unfold Obligations.Load16AcrossBoundaries
  intro s hs
  refine ⟨exec_load16_of_resolve hs (c := .pattern 0x1FFF) (d := .nametable 0) rfl rfl,
    exec_load16_of_resolve hs (c := .nametable 0xFFF) (d := .nametable 0) rfl rfl,
    exec_load16_of_resolve hs (c := .nametable 0xEFF) (d := .palette 0) rfl rfl, fun n hn => ?_, fun j hj => ?_,
    _, exec_of_effectOf_error hs (effectOf_eq_error_iff.mpr (.inr ⟨rfl, rfl⟩)), nofun⟩
  · interval_cases n
    · exact exec_load16_of_resolve hs (c := .nametable 0x3FF) (d := .nametable 0x400) rfl rfl
    · exact exec_load16_of_resolve hs (c := .nametable 0x7FF) (d := .nametable 0x800) rfl rfl
    · exact exec_load16_of_resolve hs (c := .nametable 0xBFF) (d := .nametable 0xC00) rfl rfl
  · interval_cases j <;> exact exec_load16_of_resolve hs (c := .palette 0x1F) (d := .palette 0) rfl rfl

/-! Alias sets (R46). -/

/-- R33, R46: a pattern cell has one address. -/
theorem resolve_eq_pattern_iff (a : Word) (i : BitVec 13) : resolve a = some (.pattern i) ↔ a.toNat = i.toNat := by
  have hi := i.isLt
  rcases resolve_cases a with ⟨h, e⟩ | ⟨h, h', e⟩ | ⟨h, h', e⟩ | ⟨h, e⟩ <;>
    simp [e, ← BitVec.toNat_inj] <;> omega

/-- R34, R46: the addresses of a nametable cell. -/
theorem resolve_eq_nametable_iff (a : Word) (i : BitVec 12) :
    resolve a = some (.nametable i) ↔
      a.toNat = 0x2000 + i.toNat ∨ (i.toNat ≤ 0xEFF ∧ a.toNat = 0x3000 + i.toNat) := by
  have hi := i.isLt
  rcases resolve_cases a with ⟨h, e⟩ | ⟨h, h', e⟩ | ⟨h, h', e⟩ | ⟨h, e⟩ <;>
    simp [e, ← BitVec.toNat_inj] <;> omega

/-- R35: an address of the palette range reaches the cell of its low five bits. -/
theorem resolve_eq_palette_iff_mod (a : Word) (i : BitVec 5) :
    resolve a = some (.palette i) ↔ 0x3F00 ≤ a.toNat ∧ a.toNat ≤ 0x3FFF ∧ a.toNat % 32 = i.toNat := by
  rcases resolve_cases a with ⟨h, e⟩ | ⟨h, h', e⟩ | ⟨h, h', e⟩ | ⟨h, e⟩ <;>
    simp [e, ← BitVec.toNat_inj] <;> omega

/-- R35, R46: the eight addresses of a palette cell. -/
theorem resolve_eq_palette_iff (a : Word) (i : BitVec 5) :
    resolve a = some (.palette i) ↔ ∃ j : Nat, j < 8 ∧ a.toNat = 0x3F00 + i.toNat + 32 * j := by
  have hi := i.isLt
  rw [resolve_eq_palette_iff_mod]
  constructor
  · rintro ⟨h, h', e⟩
    exact ⟨(a.toNat - 0x3F00) / 32, by omega, by omega⟩
  · rintro ⟨j, hj, e⟩
    omega

/-- R46 as arithmetic. -/
theorem aliases_iff_toNat (a b : Word) :
    aliases a b ↔ a.toNat = b.toNat ∨
      (0x2000 ≤ a.toNat ∧ a.toNat ≤ 0x3EFF ∧ 0x2000 ≤ b.toNat ∧ b.toNat ≤ 0x3EFF ∧ a.toNat % 4096 = b.toNat % 4096) ∨
      (0x3F00 ≤ a.toNat ∧ a.toNat ≤ 0x3FFF ∧ 0x3F00 ≤ b.toNat ∧ b.toNat ≤ 0x3FFF ∧ a.toNat % 32 = b.toNat % 32) := by
  simp only [aliases, BitVec.le_def, ← BitVec.toNat_inj, toNat_and_0FFF, toNat_and_1F, BitVec.toNat_ofNat]

/-- R46: valid addresses are aliases exactly when they resolve to one cell. -/
theorem resolve_eq_iff_aliases {a : Word} (ha : a.toNat ≤ 0x3FFF) (b : Word) :
    resolve a = resolve b ↔ aliases a b := by
  rw [eq_comm, aliases_iff_toNat]
  rcases resolve_cases a with ⟨h, e⟩ | ⟨h, h', e⟩ | ⟨h, h', e⟩ | ⟨h, e⟩
  · rw [e, resolve_eq_pattern_iff, BitVec.toNat_setWidth]
    omega
  · rw [e, resolve_eq_nametable_iff, BitVec.toNat_setWidth]
    omega
  · rw [e, resolve_eq_palette_iff_mod, BitVec.toNat_setWidth]
    omega
  · omega

/-- R33: from `0x2000` up no address reaches the cartridge. -/
theorem resolve_ne_pattern {a : Word} (h : 0x2000 ≤ a.toNat) (i : BitVec 13) : resolve a ≠ some (.pattern i) := by
  have hi := i.isLt
  rw [ne_eq, resolve_eq_pattern_iff]
  omega

/-- R36: an address that resolves is valid. -/
theorem toNat_le_of_resolve {a : Word} {c : CellRef} (h : resolve a = some c) : a.toNat ≤ 0x3FFF := by
  by_contra hlt
  rw [resolve_invalid (by omega)] at h
  cases h

/-- R104(a), (b), (e): after a write of the cell of `a`, an address loads the byte if it aliases `a` outside the pattern range,
and what it loaded before otherwise. -/
theorem Vram.load_writeCell {m : Vram} (hm : m.wf) {a : Word} {c : CellRef} (hc : resolve a = some c) (v : Byte) (b : Word) :
    (m.writeCell c v).load b = if 0x2000#16 ≤ a ∧ aliases a b then .ok v else m.load b := by
  have ha := toNat_le_of_resolve hc
  have halias : aliases a b ↔ some c = resolve b := by rw [← hc, resolve_eq_iff_aliases ha]
  rcases hd : resolve b with _ | d <;> rw [hd] at halias
  · rw [if_neg fun h => nomatch halias.mp h.2]
    simp [Vram.load, hd]
  rw [load_of_resolve hd, load_of_resolve hd]
  by_cases hcd : d = c
  · subst hcd
    by_cases hpat : 0x2000 ≤ a.toNat
    · rw [if_pos ⟨hpat, halias.mpr rfl⟩, readCell_writeCell_same hm v fun i hi => resolve_ne_pattern hpat i (hi ▸ hc)]
    · rw [resolve_pattern (by omega)] at hc
      cases hc
      rw [if_neg fun h => hpat h.1]
      rfl
  · rw [readCell_writeCell_other m v hcd, if_neg fun h => hcd (Option.some.inj (halias.mp h.2)).symm]

/-- Settles O33: the cell that `a` resolves to is written, and loads see it as the lemma on one write says. -/
theorem storeChangesOneCell : Obligations.StoreChangesOneCell := by
  unfold Obligations.StoreChangesOneCell
  rintro s a b v ⟨hwf, -⟩ hs ha
  obtain ⟨c, hc⟩ := resolve_isSome ha
  exact ⟨_, exec_store_of_resolve hs hc v, rfl, hs, rfl, Vram.load_writeCell hwf hc v b⟩

/-- Settles O32: the cells' addresses; and a store is seen through the aliases of its address because all resolve to one cell. -/
theorem aliasSets : Obligations.AliasSets := by
  unfold Obligations.AliasSets
  refine ⟨resolve_eq_pattern_iff, resolve_eq_nametable_iff, resolve_eq_palette_iff,
    fun a b ha _ => resolve_eq_iff_aliases ha b, ?_⟩
  rintro s a b v ⟨hwf, -⟩ hs hpat ha hab
  obtain ⟨c, hc⟩ := resolve_isSome ha
  have hread : (s.vram.writeCell c v).readCell c = v :=
    Vram.readCell_writeCell_same hwf v fun i hi => resolve_ne_pattern hpat i (hi ▸ hc)
  have hb : resolve b = some c := ((resolve_eq_iff_aliases ha b).mpr hab).symm.trans hc
  obtain ⟨t, ht, hlive, hvram⟩ : ∃ t, exec (.store a v) s = .next t ∧ t.fault = none ∧ t.vram = s.vram.writeCell c v :=
    ⟨_, exec_store_of_resolve hs hc v, hs, rfl⟩
  refine ⟨t, ht, ?_⟩
  rw [exec_load_of_resolve hlive hb, hvram, hread]

/-- A store that answers a next state without a fault wrote the cell of its address. -/
theorem exec_store_next {s t : State} {a : Word} {v : Byte} (h : exec (.store a v) s = .next t) (ht : t.fault = none) :
    s.fault = none ∧ a.toNat ≤ 0x3FFF := by
  obtain ⟨hs, ⟨m, u, r, -, hm, -, -⟩ | ⟨f, -, rfl⟩⟩ := exec_next_cases h
  · refine ⟨hs, ?_⟩
    rcases s.vram.store_cases a v with ⟨ha, -⟩ | ⟨-, e⟩
    · exact ha
    · cases e.symm.trans hm
  · cases ht

/-- Settles O34: both stores write one cell, and the later write of a cell stands. -/
theorem lastStoreWins : Obligations.LastStoreWins := by
  unfold Obligations.LastStoreWins
  rintro s t a b v w ⟨hwf, -⟩ h ht hab
  obtain ⟨hs, ha⟩ := exec_store_next h ht
  obtain ⟨c, hc⟩ := resolve_isSome ha
  have hb : resolve b = some c := ((resolve_eq_iff_aliases ha b).mpr hab).symm.trans hc
  rw [exec_store_of_resolve hs hc v] at h
  cases h
  rw [exec_store_of_resolve ht hb, exec_store_of_resolve hs hb]
  simp only [Vram.writeCell_writeCell_same hwf]

/-- Settles O35: the stores write two cells, and writes of two cells commute. -/
theorem storesCommute : Obligations.StoresCommute := by
  unfold Obligations.StoresCommute
  rintro s t u a b v w ⟨hwf, -⟩ ha hb hab ht hu
  obtain ⟨hs, -⟩ := exec_next_cases ht
  obtain ⟨c, hc⟩ := resolve_isSome ha
  obtain ⟨d, hd⟩ := resolve_isSome hb
  have hcd : c ≠ d := by
    rintro rfl
    exact hab ((resolve_eq_iff_aliases ha b).mp (hc.trans hd.symm))
  rw [exec_store_of_resolve hs hc v, Host.Outcome.next.injEq] at ht
  rw [exec_store_of_resolve hs hd w, Host.Outcome.next.injEq] at hu
  have htlive : t.fault = none := ht ▸ hs
  have hulive : u.fault = none := hu ▸ hs
  rw [exec_store_of_resolve htlive hd, exec_store_of_resolve hulive hc, ← ht, ← hu]
  simp only [Vram.writeCell_writeCell_comm hwf hcd]

end Sys2Proof.Machine
end

section
/-! PROOFS. The address latch and the data write (spec/43_dispatcher.md R117, R118, 70_reset_and_hazards.md section 3). A data
write at a valid cursor writes the cell of the cursor and advances it by 32 or 0; at an invalid one it is fatal. -/

namespace Sys2Proof.Machine

/-! The address latch. -/

theorem append_toNat (hi lo : Byte) : (hi ++ lo).toNat = hi.toNat * 256 + lo.toNat := by
  rw [BitVec.toNat_append, ← Nat.shiftLeft_add_eq_or_of_lt lo.isLt, Nat.shiftLeft_eq]

/-- R92 as arithmetic. -/
theorem shiftIn_toNat (w : Word) (v : Byte) : (shiftIn w v).toNat = w.toNat % 256 * 256 + v.toNat := by
  rw [shiftIn_eq_append, append_toNat]
  simp

/-- R154: two bytes shifted in are the whole cursor. -/
theorem shiftIn_shiftIn (w : Word) (hi lo : Byte) : shiftIn (shiftIn w hi) lo = hi ++ lo := by
  have hhi := hi.isLt
  apply BitVec.eq_of_toNat_eq
  rw [shiftIn_toNat, shiftIn_toNat, append_toNat]
  omega

theorem exec_wrAddr_live {s : State} (hs : s.fault = none) (v : Byte) :
    exec (.wrAddr v) s = .next { s with regs := s.regs.addrWrite v, reply := some .done } :=
  exec_of_effectOf_withRegs hs rfl

theorem exec_wrCtrl_live {s : State} (hs : s.fault = none) (v : Byte) :
    exec (.wrCtrl v) s = .next { s with regs := s.regs.setCtrl v, reply := some .done } :=
  exec_of_effectOf_withRegs hs rfl

/-- R163: a run begins with the operation whose encoding is the oldest request. -/
theorem runFor_encodeAt {k : Nat} {s t : State} {x : BitVec 10} {i : Instr} {rest : List Request}
    (h : exec i (s.withPending rest) = .next t) :
    runFor (k + 1) { s with pending := encodeAt x i :: rest } = runFor k t :=
  runFor_succ_next ((step_of_decode rfl (encodedOperationDecodesToItself x i)).trans h)

/-- An operation that writes registers and has no other effect. -/
def WritesRegsOnly (i : Instr) : Prop :=
  ∀ s : State, effectOf i s = some (.ok (s.withRegs (regsAfter i s.regs), .done))

theorem runFor_writesRegsOnly_cons {k : Nat} {s : State} {i : Instr} (hs : s.fault = none) (hi : WritesRegsOnly i)
    (x : BitVec 10) (rest : List Request) :
    runFor (k + 1) { s with pending := encodeAt x i :: rest } =
      runFor k { s with regs := regsAfter i s.regs, pending := rest, reply := some .done } :=
  runFor_encodeAt (exec_of_effectOf_withRegs (s := s.withPending rest) hs (hi _))

/-- A run of such operations leaves the registers that they leave one after another. -/
theorem runFor_writesRegsOnly (w : BitVec 10 × Instr) (ws : List (BitVec 10 × Instr)) (rest : List Request) {s : State}
    (hs : s.fault = none) (hw : WritesRegsOnly w.2) (hws : ∀ p ∈ ws, WritesRegsOnly p.2) :
    runFor (ws.length + 1) { s with pending := encodeAt w.1 w.2 :: (ws.map (fun p => encodeAt p.1 p.2) ++ rest) } =
      .next { s with
        regs := ws.foldl (fun r p => regsAfter p.2 r) (regsAfter w.2 s.regs), pending := rest, reply := some .done } := by
  induction ws generalizing w s with
  | nil => exact runFor_writesRegsOnly_cons hs hw w.1 rest
  | cons p ws ih =>
    refine (runFor_writesRegsOnly_cons hs hw w.1 _).trans ?_
    exact ih p (s := { s with regs := regsAfter w.2 s.regs, reply := some .done }) hs (hws p (by simp))
      fun q hq => hws q (List.mem_cons_of_mem p hq)

theorem wrAddr_writesRegsOnly (v : Byte) : WritesRegsOnly (.wrAddr v) := fun _ => rfl

theorem wrScroll_writesRegsOnly (v : Byte) : WritesRegsOnly (.wrScroll v) := fun _ => rfl

/-- Settles O26: the registers that the writes leave one after another; two bytes shifted in are the cursor, and two scroll
writes fill `x` and `y`. -/
theorem addressLatchHasNoPhase : Obligations.AddressLatchHasNoPhase := by
  unfold Obligations.AddressLatchHasNoPhase
  intro s rest hi lo x y m1 m2 m3 m4 hs
  rw [← shiftIn_eq_append, ← shiftIn_shiftIn s.regs.addr hi lo]
  refine ⟨runFor_writesRegsOnly (m1, .wrAddr lo) [] rest hs (wrAddr_writesRegsOnly lo) nofun,
    runFor_writesRegsOnly (m1, .wrAddr hi) [(m2, .wrAddr lo)] rest hs (wrAddr_writesRegsOnly hi) ?_, fun hdir => ?_⟩
  · simp [wrAddr_writesRegsOnly]
  · refine (runFor_writesRegsOnly (m1, .wrAddr hi) [(m2, .wrScroll x), (m3, .wrAddr lo), (m4, .wrScroll y)] rest hs
      (wrAddr_writesRegsOnly hi) ?_).trans ?_
    · simp [wrAddr_writesRegsOnly, wrScroll_writesRegsOnly]
    · simp [regsAfter, Regs.addrWrite, Regs.scrollWrite, Scroll.fill, hdir]

/-! The data write. -/

theorem exec_wrData_of_resolve {s : State} {c : CellRef} (hs : s.fault = none) (h : resolve s.regs.addr = some c)
    (v : Byte) :
    exec (.wrData v) s =
      .next { s with vram := s.vram.writeCell c v, regs := s.regs.advance, reply := some .done } :=
  (exec_eq_perform (effectOf_wrData_ok (Vram.store_of_resolve h v))).trans (perform_ok hs _ .done)

theorem exec_wrData_invalid {s : State} (hs : s.fault = none) (h : 0x4000 ≤ s.regs.addr.toNat) (v : Byte) :
    exec (.wrData v) s =
      .next { s with
        fault := some (.invalidAddress s.regs.addr), reply := some (.failed (.invalidAddress s.regs.addr)) } :=
  exec_of_effectOf_error hs (effectOf_eq_error_iff.mpr ⟨h, rfl⟩)

/-- R118: what a data write that answers a next state has done. -/
theorem exec_wrData_next {s t : State} {v : Byte} (h : exec (.wrData v) s = .next t) :
    (∃ c, resolve s.regs.addr = some c ∧
        t = { s with vram := s.vram.writeCell c v, regs := s.regs.advance, reply := some .done }) ∨
      ∃ f, t = { s with fault := some f, reply := some (.failed f) } := by
  obtain ⟨hs, -⟩ := exec_next_cases h
  by_cases ha : s.regs.addr.toNat ≤ 0x3FFF
  · obtain ⟨c, hc⟩ := resolve_isSome ha
    rw [exec_wrData_of_resolve hs hc] at h
    cases h
    exact .inl ⟨c, hc, rfl⟩
  · rw [exec_wrData_invalid hs (by omega)] at h
    cases h
    exact .inr ⟨_, rfl⟩

/-- R36, R131: a data write at an invalid cursor stores nothing and is the block's last operation. -/
theorem exec_wrData_fatal {s : State} (hs : s.fault = none) (h : 0x4000 ≤ s.regs.addr.toNat) (v : Byte) :
    ∃ t, exec (.wrData v) s = .next t ∧ t.fault ≠ none ∧ t.vram = s.vram ∧ ∀ i, exec i t = .refused .faulted :=
  ⟨_, exec_wrData_invalid hs h v, nofun, rfl, exec_faulted rfl⟩

/-- R118: the advance of the cursor, as the control byte gives it. -/
theorem advance_eq (r : Regs) :
    r.advance = { r with addr := r.addr + if r.ctrl.toNat / 4 % 2 = 1 then 32#16 else 0#16 } := by
  rw [Regs.advance, vramAddrIncrementOf_eq_ite]

/-- R17: from a valid cursor the advance does not wrap. -/
theorem advance_addr_toNat {r : Regs} (h : r.addr.toNat ≤ 0x3FFF) :
    r.advance.addr.toNat = r.addr.toNat + if r.ctrl.toNat / 4 % 2 = 1 then 32 else 0 := by
  rw [Regs.advance_addr, vramAddrIncrementOf_eq_ite, BitVec.toNat_add]
  split <;> simp <;> omega

/-- Settles O36: the cursor resolves to a cell or it is invalid. -/
theorem dataWriteStoresThenAdvances : Obligations.DataWriteStoresThenAdvances := by
  unfold Obligations.DataWriteStoresThenAdvances
  refine fun s v hs => ⟨fun h => ?_, fun h => exec_wrData_invalid hs h v⟩
  obtain ⟨c, hc⟩ := resolve_isSome h
  rw [← vramAddrIncrementOf_eq_ite]
  exact ⟨_, Vram.store_of_resolve hc v, exec_wrData_of_resolve hs hc v⟩

/-- Settles O37: the cell of the cursor is written, and loads see it as the lemma on one write says. -/
theorem dataWriteChangesOneCell : Obligations.DataWriteChangesOneCell := by
  unfold Obligations.DataWriteChangesOneCell
  rintro s b v ⟨hwf, -⟩ hs h
  obtain ⟨c, hc⟩ := resolve_isSome h
  exact ⟨_, exec_wrData_of_resolve hs hc v, Vram.load_writeCell hwf hc v b⟩

/-- Settles O38: the cursor of a data write that does not fault is valid. -/
theorem cursorAdvanceNeverWraps : Obligations.CursorAdvanceNeverWraps := by
  unfold Obligations.CursorAdvanceNeverWraps
  intro s t v h ht
  obtain ⟨c, hc, rfl⟩ | ⟨f, rfl⟩ := exec_wrData_next h
  · have ha := toNat_le_of_resolve hc
    refine ⟨advance_addr_toNat ha, (advance_addr_toNat ha).trans_le ?_⟩
    split <;> omega
  · cases ht

/-! A sequence of operations goes through states of which only the fields matter. -/

theorem wrAddr_completes {s : State} (hs : s.fault = none) (v : Byte) :
    ∃ t, exec (.wrAddr v) s = .next t ∧ t.fault = none ∧ t.regs = s.regs.addrWrite v ∧ t.vram = s.vram :=
  ⟨_, exec_wrAddr_live hs v, hs, rfl, rfl⟩

theorem wrData_completes {s : State} {c : CellRef} (hs : s.fault = none) (h : resolve s.regs.addr = some c) (v : Byte) :
    ∃ t, exec (.wrData v) s = .next t ∧ t.fault = none ∧ t.regs = s.regs.advance ∧ t.vram = s.vram.writeCell c v :=
  ⟨_, exec_wrData_of_resolve hs h v, hs, rfl, rfl⟩

/-- Settles O27: the old low byte is the new high byte; at `0x4000` or above the data write is fatal. -/
theorem addressWriteCanReachInvalidCursor : Obligations.AddressWriteCanReachInvalidCursor := by
  unfold Obligations.AddressWriteCanReachInvalidCursor
  intro s v w hs
  obtain ⟨t, ht, hlive, hregs, hvram⟩ := wrAddr_completes hs v
  have hv := v.isLt
  have haddr : t.regs.addr.toNat = s.regs.addr.toNat % 256 * 256 + v.toNat := by
    rw [hregs, Regs.addrWrite_addr, shiftIn_toNat]
  refine ⟨t, ht, hlive, by omega, fun h => ?_⟩
  rw [← hvram]
  exact exec_wrData_fatal hlive h w

/-- Settles O39: the advanced cursor is invalid, so a data write there is fatal; two address writes replace it whole. -/
theorem runningOffTheTop : Obligations.RunningOffTheTop := by
  unfold Obligations.RunningOffTheTop
  intro s v w hi lo hs h3FE0 h3FFF
  have hlo : 0x3FE0 ≤ s.regs.addr.toNat := h3FE0
  have hhi : s.regs.addr.toNat ≤ 0x3FFF := h3FFF
  obtain ⟨c, hc⟩ := resolve_isSome hhi
  obtain ⟨t, ht, htlive, htregs, -⟩ := wrData_completes hs hc v
  have haddr := advance_addr_toNat hhi
  rw [← htregs] at haddr
  refine ⟨t, ht, htlive, fun hctrl => ?_, fun hctrl => ?_⟩
  · rw [if_pos hctrl] at haddr
    have h4000 : 0x4000 ≤ t.regs.addr.toNat := by omega
    have h401F : t.regs.addr.toNat ≤ 0x401F := by omega
    obtain ⟨u, hu, hufault, -, hurefused⟩ := exec_wrData_fatal htlive h4000 w
    obtain ⟨t₁, ht₁, hlive₁, hregs₁, -⟩ := wrAddr_completes htlive hi
    obtain ⟨t₂, ht₂, hlive₂, hregs₂, -⟩ := wrAddr_completes hlive₁ lo
    refine ⟨h4000, h401F, ⟨u, hu, hufault, hurefused⟩, t₁, t₂, ht₁, ht₂, hlive₂, ?_⟩
    rw [hregs₂, hregs₁, Regs.addrWrite_addr, Regs.addrWrite_addr, shiftIn_shiftIn]
  · rw [if_neg (by omega)] at haddr
    exact BitVec.eq_of_toNat_eq haddr

/-- R34: the cell of an address of the nametable range, by its index. -/
theorem resolve_nametable_of_toNat {a : Word} {n : Nat} (hn : n < 4096) (h : a.toNat = 0x2000 + n) :
    resolve a = some (.nametable (BitVec.ofNat 12 n)) := by
  rw [resolve_eq_nametable_iff, BitVec.toNat_ofNat, Nat.mod_eq_of_lt hn]
  exact .inl h

/-- Settles O42: a pattern cell takes no byte; 32 further on is the nametable cell named. -/
theorem patternRangeWritesWalkOn : Obligations.PatternRangeWritesWalkOn := by
  unfold Obligations.PatternRangeWritesWalkOn
  intro s v w hs h1FFF
  have ha : s.regs.addr.toNat ≤ 0x1FFF := h1FFF
  rw [← advance_eq]
  refine ⟨_, exec_wrData_of_resolve hs (resolve_pattern ha) v, rfl, fun hctrl h1FE0 => ?_⟩
  have hlow : 0x1FE0 ≤ s.regs.addr.toNat := h1FE0
  have haddr := advance_addr_toNat (r := s.regs) (by omega)
  rw [if_pos hctrl] at haddr
  have hn : s.regs.addr.toNat - 0x1FE0 < 4096 := by omega
  have hcell := resolve_nametable_of_toNat (a := s.regs.advance.addr) hn (by omega)
  obtain ⟨u, hu, hlive, -, hvram⟩ := wrData_completes
    (s := { s with vram := s.vram, regs := s.regs.advance, reply := some .done }) hs hcell w
  refine ⟨u, hu, hlive, ?_⟩
  rw [hvram, Vram.writeCell, BitVec.toNat_ofNat, Nat.mod_eq_of_lt hn]

/-- Settles O43: the two data writes are at valid cursors, and each advance reads the control byte of its time. -/
theorem strideChangeTakesEffectAtOnce : Obligations.StrideChangeTakesEffectAtOnce := by
  unfold Obligations.StrideChangeTakesEffectAtOnce
  intro s c v w hs hcursor
  have hs3FFF : s.regs.addr.toNat ≤ 0x3FFF := by omega
  obtain ⟨d, hd⟩ := resolve_isSome hs3FFF
  obtain ⟨t, ht, htlive, htregs, -⟩ := wrData_completes hs hd v
  obtain ⟨u, hu, hulive, huregs⟩ : ∃ u, exec (.wrCtrl c) t = .next u ∧ u.fault = none ∧ u.regs = t.regs.setCtrl c :=
    ⟨_, exec_wrCtrl_live htlive c, htlive, rfl⟩
  have htaddr := advance_addr_toNat hs3FFF
  rw [← htregs] at htaddr
  have huaddr : u.regs.addr = t.regs.addr := by rw [huregs, Regs.setCtrl_addr]
  have hu3FFF : u.regs.addr.toNat ≤ 0x3FFF := by
    rw [huaddr, htaddr]
    split <;> omega
  obtain ⟨e, he⟩ := resolve_isSome hu3FFF
  obtain ⟨z, hz, -, hzregs, -⟩ := wrData_completes hulive he w
  refine ⟨t, u, z, ht, hu, hz, htaddr, huaddr, ?_⟩
  rw [hzregs, advance_addr_toNat hu3FFF, huaddr, huregs, Regs.setCtrl_ctrl]

/-- Settles O44: the cursor after the first address write decides what the data write does; the second one shifts what it
leaves. -/
theorem dataWriteBetweenAddressWrites : Obligations.DataWriteBetweenAddressWrites := by
  unfold Obligations.DataWriteBetweenAddressWrites
  intro s hi lo v hs
  obtain ⟨t, ht, htlive, htregs, htvram⟩ := wrAddr_completes hs hi
  refine ⟨t, ht, by rw [htregs, Regs.addrWrite_addr, shiftIn_eq_append], fun h => ?_, fun h => ?_⟩
  · obtain ⟨c, hc⟩ := resolve_isSome h
    obtain ⟨u, hu, hulive, huregs, huvram⟩ := wrData_completes htlive hc v
    rw [htvram] at huvram
    obtain ⟨z, hz, -, hzregs, -⟩ := wrAddr_completes hulive lo
    refine ⟨_, u, z, Vram.store_of_resolve hc v, hu, huvram, ?_, hz, ?_⟩
    · rw [huregs, Regs.advance_addr, vramAddrIncrementOf_eq_ite, htregs, Regs.addrWrite_ctrl]
    · rw [hzregs, Regs.addrWrite_addr, shiftIn_eq_append]
  · obtain ⟨u, hu, hfault, -, -⟩ := exec_wrData_fatal htlive h v
    exact ⟨u, hu, hfault⟩

end Sys2Proof.Machine
end

section
/-! PROOFS. Runs of data writes that stay in one cell (spec/70_reset_and_hazards.md R150, R151), and what a bus write never does
(43_dispatcher.md R123). -/

namespace Sys2Proof.Machine

/-! Runs of data writes. -/

theorem runFor_wrData {k : Nat} {s : State} {c : CellRef} (hs : s.fault = none) (hc : resolve s.regs.addr = some c)
    (x : BitVec 10) (v : Byte) (rest : List Request) :
    runFor (k + 1) { s with pending := encodeAt x (.wrData v) :: rest } =
      runFor k { s with
        vram := s.vram.writeCell c v, regs := s.regs.advance, pending := rest, reply := some .done } :=
  runFor_encodeAt (exec_wrData_of_resolve (s := s.withPending rest) hs hc v)

/-- A run of data writes whose cursors all resolve to one cell leaves the last byte there; the cursor has advanced once for
each. -/
theorem runFor_wrData_one_cell {c : CellRef} (xs : List (BitVec 10 × Byte)) (x : BitVec 10) (v : Byte)
    (rest : List Request) {s : State} (hwf : s.vram.wf) (hs : s.fault = none)
    (hc : ∀ j ≤ xs.length, resolve (Regs.advance^[j] s.regs).addr = some c) :
    runFor (xs.length + 1) { s with
        pending := xs.map (fun p => encodeAt p.1 (.wrData p.2)) ++ encodeAt x (.wrData v) :: rest } =
      .next { s with
        vram := s.vram.writeCell c v, regs := Regs.advance^[xs.length + 1] s.regs, pending := rest
        reply := some .done } := by
  induction xs generalizing s with
  | nil => exact runFor_wrData hs (hc 0 (Nat.zero_le _)) x v rest
  | cons p xs ih =>
    refine (runFor_wrData hs (hc 0 (Nat.zero_le _)) p.1 p.2 _).trans ?_
    refine (ih (s := { s with vram := s.vram.writeCell c p.2, regs := s.regs.advance, reply := some .done })
      (Vram.writeCell_wf hwf c p.2) hs fun j hj => hc (j + 1) (Nat.succ_le_succ hj)).trans ?_
    rw [Vram.writeCell_writeCell_same hwf]
    rfl

/-- Settles O40: the advance by 0 leaves the registers, so every cursor of the run is the first. -/
theorem zeroStrideOverwritesOneCell : Obligations.ZeroStrideOverwritesOneCell := by
  unfold Obligations.ZeroStrideOverwritesOneCell
  rintro s xs x v rest ⟨hwf, -⟩ hs hctrl h
  have hadvance : s.regs.advance = s.regs := by
    rw [advance_eq, if_neg (by omega), BitVec.add_zero]
  have hiter (j : Nat) : Regs.advance^[j] s.regs = s.regs := Function.iterate_fixed hadvance j
  obtain ⟨c, hc⟩ := resolve_isSome h
  have hrun := runFor_wrData_one_cell xs x v rest hwf hs (fun j _ => by rw [hiter]; exact hc)
  rw [hiter] at hrun
  exact ⟨_, Vram.store_of_resolve hc v, hrun⟩

/-- R118: `n` advances by 32. -/
theorem iterate_advance {r : Regs} (hctrl : r.ctrl.toNat / 4 % 2 = 1) (n : Nat) :
    Regs.advance^[n] r = { r with addr := BitVec.ofNat 16 (r.addr.toNat + 32 * n) } := by
  induction n with
  | zero => simp
  | succ n ih =>
    rw [Function.iterate_succ_apply', ih, advance_eq, if_pos hctrl]
    congr 1
    apply BitVec.eq_of_toNat_eq
    simp
    omega

/-- Settles O41: up to seven advances stay in the palette range with the low five bits unchanged; the eighth leaves it. -/
theorem paletteStrideKeepsCell : Obligations.PaletteStrideKeepsCell := by
  unfold Obligations.PaletteStrideKeepsCell
  rintro s i xs x v w rest ⟨hwf, -⟩ hs hctrl hi haddr hlen
  have hcell : ∀ j ≤ xs.length, resolve (Regs.advance^[j] s.regs).addr = some (.palette (BitVec.ofNat 5 i)) := by
    intro j hj
    rw [iterate_advance hctrl, resolve_eq_palette_iff]
    refine ⟨j, by omega, ?_⟩
    simp
    omega
  obtain ⟨t, ht, hlive, hvram, hregs⟩ : ∃ t, runFor (xs.length + 1) { s with
        pending := xs.map (fun p => encodeAt p.1 (.wrData p.2)) ++ encodeAt x (.wrData v) :: rest } = .next t ∧
      t.fault = none ∧ t.vram = s.vram.writeCell (.palette (BitVec.ofNat 5 i)) v ∧
      t.regs = Regs.advance^[xs.length + 1] s.regs :=
    ⟨_, runFor_wrData_one_cell xs x v rest hwf hs hcell, hs, rfl, rfl⟩
  rw [iterate_advance hctrl, haddr] at hregs
  rw [Vram.writeCell, BitVec.toNat_ofNat, Nat.mod_eq_of_lt hi] at hvram
  refine ⟨t, ht, hlive, hvram, hregs, fun hseven => ?_⟩
  have h4000 : 0x4000 ≤ t.regs.addr.toNat := by
    rw [hregs, hseven, BitVec.toNat_ofNat]
    omega
  obtain ⟨u, hu, hfault, -, -⟩ := exec_wrData_fatal hlive h4000 w
  exact ⟨u, hu, hfault⟩

/-! What a bus write never does. -/

theorem busWriteOp_writesStatus (k : BitVec 3) (v : Byte) : (busWriteOp k v).writesStatus = false := by
  rcases offset_cases k with rfl | rfl | rfl | rfl | rfl | rfl | rfl | rfl <;> rfl

theorem busWriteOp_writesScroll (k : BitVec 3) (v : Byte) : (busWriteOp k v).writesScroll = decide (k = 5#3) := by
  rcases offset_cases k with rfl | rfl | rfl | rfl | rfl | rfl | rfl | rfl <;> rfl

theorem busWriteOp_writesCursor (k : BitVec 3) (v : Byte) :
    (busWriteOp k v).writesCursor = decide (k = 6#3 ∨ k = 7#3) := by
  rcases offset_cases k with rfl | rfl | rfl | rfl | rfl | rfl | rfl | rfl <;> rfl

theorem busWriteOp_writesVram (k : BitVec 3) (v : Byte) : (busWriteOp k v).writesVram = decide (k = 7#3) := by
  rcases offset_cases k with rfl | rfl | rfl | rfl | rfl | rfl | rfl | rfl <;> rfl

theorem busWriteOp_format (k : BitVec 3) (v : Byte) : Laws.EncodedFormat.formatOf (busWriteOp k v) = .bw := by
  rcases offset_cases k with rfl | rfl | rfl | rfl | rfl | rfl | rfl | rfl <;> rfl

/-- R123: an operation of format BW returns no value. -/
theorem effectOf_reply_of_bw {i : Instr} {s u : State} {r : Reply} (hi : Laws.EncodedFormat.formatOf i = .bw)
    (h : effectOf i s = some (.ok (u, r))) : r = .done := by
  cases i with
  | wrCtrl v | wrMask v | wrStatus v | wrOamaddr v | wrScroll v | wrAddr v =>
    cases h
    rfl
  | wrOamdata v => cases h
  | wrData v =>
    obtain ⟨m, -, hm⟩ := except_map_eq_ok_iff.mp (Option.some.inj h)
    cases hm
    rfl
  | _ => cases hi

theorem exec_reply_of_bw {i : Instr} {s t : State} (hi : Laws.EncodedFormat.formatOf i = .bw) (h : exec i s = .next t)
    (x : Value) : t.reply ≠ some (.value x) := by
  obtain ⟨-, ⟨m, u, r, he, -, -, rfl⟩ | ⟨f, -, rfl⟩⟩ := exec_next_cases h
  · cases effectOf_reply_of_bw hi he
    exact nofun
  · exact nofun

/-- R33: a pattern address loads the cartridge's byte, whatever the buffers hold. -/
theorem Vram.load_pattern (m : Vram) {a : Word} (h : a.toNat ≤ 0x1FFF) : m.load a = .ok (Config.chr (a.setWidth 13)) :=
  load_of_resolve (resolve_pattern h)

/-- R123: a bus write leaves every cell but the one at the cursor of before. -/
theorem exec_busWriteOp_readCell {k : BitVec 3} {v : Byte} {s t : State} (h : exec (busWriteOp k v) s = .next t)
    {c : CellRef} (hc : resolve s.regs.addr ≠ some c) : t.vram.readCell c = s.vram.readCell c := by
  by_cases hk : k = 7#3
  · subst hk
    obtain ⟨d, hd, rfl⟩ | ⟨f, rfl⟩ := exec_wrData_next h
    · exact Vram.readCell_writeCell_other _ v fun hcd => hc (hcd ▸ hd)
    · rfl
  · rw [exec_vram (by simp [busWriteOp_writesVram, hk]) h]

/-- R50: an address that does not have the offset `k` does not have its field `reg`. -/
theorem regField_ne {a k : Word} (hk : k &&& 7#16 = k) (h : a &&& 7#16 ≠ k) : regField a ≠ regField k :=
  fun hreg => h (((regField_eq_iff a k).mp hreg).trans hk)

/-- Settles O55: the step performs the operation of the offset, which writes what its row of the state table says. -/
theorem busWriteFootprint : Obligations.BusWriteFootprint := by
  unfold Obligations.BusWriteFootprint
  intro a v s t rest hp h
  obtain ⟨hnil, -⟩ | ⟨q, rest', i, hp', hd, he⟩ := step_next h
  · cases hp.symm.trans hnil
  · cases hp.symm.trans hp'
    obtain ⟨-, rfl⟩ := decode_busWrite_ok hd
    refine ⟨exec_status (s := s.withPending rest) (busWriteOp_writesStatus _ v) he, fun b hb => ?_,
      fun c hc => exec_busWriteOp_readCell (s := s.withPending rest) he hc, fun h5 => ?_, fun h6 h7 => ?_, fun h7 => ?_,
      exec_reply_of_bw (busWriteOp_format _ v) he⟩
    · rw [Vram.load_pattern _ hb, Vram.load_pattern _ hb]
    · have hk : regField a ≠ 5#3 := regField_ne (k := 5#16) (by decide) h5
      exact congrArg Scroll.next (exec_scroll (s := s.withPending rest) (by simp [busWriteOp_writesScroll, hk]) he)
    · have hk6 : regField a ≠ 6#3 := regField_ne (k := 6#16) (by decide) h6
      have hk7 : regField a ≠ 7#3 := regField_ne (k := 7#16) (by decide) h7
      exact exec_addr (s := s.withPending rest) (by simp [busWriteOp_writesCursor, hk6, hk7]) he
    · have hk : regField a ≠ 7#3 := regField_ne (k := 7#16) (by decide) h7
      exact exec_vram (s := s.withPending rest) (by simp [busWriteOp_writesVram, hk]) he

end Sys2Proof.Machine
end
